-- ==== Sys2Proof/Word.lean ====
section
/-! DEFINITION. The word types of the Torsyn 3264 and the numbers of its parts. -/

namespace Sys2Proof

/-- One byte of a frame (spec/10, R167). -/
abbrev Byte := BitVec 8

/-- A two-byte frame field (spec/10, R178). -/
abbrev Half := BitVec 16

/-- A four-byte frame field (spec/10, R178). -/
abbrev Word := BitVec 32

/-- A device time: a 32-bit count of 10 µs units (spec/03, R46). -/
abbrev DeviceTime := BitVec 32

/-- The index of one of the 64 watch table entries (spec/01, R1). -/
abbrev EntryIndex := Fin 64

/-- One of the sixteen analog inputs AIN0 to AIN15 (spec/05, R80). -/
abbrev AnalogInput := Fin 16

/-- One of the eight digital timing inputs DIN0 to DIN7 (spec/07, R115). -/
abbrev TimingInput := Fin 8

/-- One of the four capture engines E0 to E3 (spec/07, R121). -/
abbrev EngineIndex := Fin 4

end Sys2Proof
end

