-- ==== Sys2Proof/Config.lean ====
section
/-! DEFINITION. What the part fixes once (capacities, times in µs) and the one value the spec leaves free. -/

namespace Sys2Proof.Config

/-- Waiting requests one converter queue holds (spec/05, R86). -/
def queueCapacity : Nat := 8

/-- The overrun count's ceiling (spec/01, R6). -/
def overrunCeiling : Nat := 255

/-- The largest parameter length of a request frame (spec/10, R167). -/
def maxParameters : Nat := 40

/-- Microseconds in one unit of device time (spec/03, R46). -/
def unitMicros : Nat := 10

/-- Device-time units in one unit of an interval or first delay: 100 µs (spec/03, R50). -/
def unitsPerInterval : Nat := 10

/-- The device time at which warm-up ends (spec/05, R83). -/
def warmupUnits : Nat := 200

/-- The length of one conversion in µs (spec/05, R85). -/
def conversionMicros : Nat := 6

/-- The settle time of a CHECK request in units of 10 µs (spec/05, R82). -/
def checkSettle : Nat := 10

/-- The trigger lines' filter time in µs (spec/04, R69). -/
def trgFilterMicros : Nat := 2

/-- The longest filter time of the part in µs; how long a pin has held its level is counted no further (log 26). -/
def longestFilterMicros : Nat := 1000

/-- How long SCL may stay low in a transaction of port B, in µs (spec/10, R175). -/
def stallMicros : Nat := 25000

/-- The ceiling of an EDGE_COUNT measurement (spec/07, R127). -/
def countCeiling : Nat := 2147483647

/-- DESIGN CHOICE, safe (log 6). The level that a converter finds at its input, in µV, when an idle part completes a
conversion by itself: the spec does not give the world's signals, so nothing constrains it. It is read at the counter
`State.samples`, afresh each time. -/
opaque sampledLevel : Nat → Int

end Sys2Proof.Config
end

