-- ==== Sys2Proof/Syntax.lean ====
section
/-! DEFINITION. The commands of the part: one constructor of `Instr` for each row of spec/opcode_table.json.

A port command carries the port it arrives on, its tag and the raw fields of its parameters, so that every value a frame can
carry can be written, the refused ones too (spec/10, R168, R178, R179). The other rows are bus transactions, resets and the
part's own events; their operands are what the outside brings with them. -/

namespace Sys2Proof

/-- The two host ports (spec/10). -/
inductive Port where
  | a
  | b
deriving DecidableEq, Repr

/-- The two trigger lines (spec/04). -/
inductive TrgLine where
  | trg0
  | trg1
deriving DecidableEq, Repr

/-- The two converters (spec/05, R80). -/
inductive ConverterId where
  | c0
  | c1
deriving DecidableEq, Repr

/-- The level of a digital pin. -/
inductive Level where
  | low
  | high
deriving DecidableEq, Repr

/-- A handle parameter: entry index, then generation, both as sent (spec/10, R177). -/
structure Handle where
  index : Byte
  generation : Byte
deriving DecidableEq, Repr

/-- The 13 bytes of bank contents as sent (spec/10, R179). -/
structure BankBlock where
  present : Byte
  low : Word
  high : Word
  hysteresis : Word
deriving DecidableEq, Repr

/-- The 28 bytes of a definition block as sent (spec/10, R179). -/
structure DefBlock where
  kind : Byte
  input : Byte
  /-- Range for LEVEL, polarity for the timing kinds. -/
  rangeOrPolarity : Byte
  start : Byte
  lifetime : Byte
  policy : Byte
  share : Byte
  settle : Byte
  interval : Half
  /-- Gate for EDGE_COUNT, limit for PERIOD and HIGH_TIME. -/
  gateOrLimit : Half
  qualify : Byte
  notify : Byte
  bankA : BankBlock
  reserved : Byte
deriving DecidableEq, Repr

/-- The levels of the pins that the part takes when it leaves a reset (spec/04 R79, spec/07 R120, spec/10 R174). -/
structure PinLevels where
  trg0 : Level
  trg1 : Level
  din : Vector Level 8
  /-- ADR1 and ADR0. -/
  adr : BitVec 2
deriving DecidableEq, Repr

/-- Where an outcome that is to be delivered stands: at a converter for one of its subscribers, or at a capture engine
(spec/08, R137). -/
inductive DeliverySource where
  | converter (c : ConverterId) (i : EntryIndex)
  | engine (e : EngineIndex)
deriving DecidableEq, Repr

/-- The claims that the part's longer commands are made of: PORT RESET retires entry by entry (spec/02 R41) and clears its port's hold
claim after that (spec/03 R66), the resume work expires and then services (spec/03 R64). -/
inductive Claim where
  | retirement (i : EntryIndex)
  | release
  | expiry (i : EntryIndex)
  | service (i : EntryIndex)
deriving DecidableEq, Repr

/-- The timed events of the part, with the operands of their rows. -/
inductive TimedEvent where
  | trgTransition (line : TrgLine) (level : Level) (examined : Nat)
  | waitingEdge (line : TrgLine) (examined : Nat)
  | dinTransition (n : TimingInput) (level : Level)
  | warmupExpiry (c : ConverterId)
  | settleExpiry (c : ConverterId)
  | conversionCompletion (c : ConverterId) (level : Int)
  | checkCompletion (c : ConverterId) (level : Int)
  | limitExpiry (e : EngineIndex)
  | gateExpiry (e : EngineIndex)
  | intervalExpiry
  | becomePastDue (i : EntryIndex)
  | becomeLate (i : EntryIndex)
  | stallTimeout
deriving DecidableEq, Repr

/-- What may come between two of those claims: a delivery to an entry (spec/03 R64), an IDLE converter's start (spec/05 R84), a timed
event that is due at that very instant, and bytes or the end of a transaction of the other port, such as the frame of its FETCH
ATTENTION (spec/02 R41, spec/09 R161). DESIGN CHOICE (log 15): R64 keeps four kinds of event out of the resume work and names
deliveries as what may come there; every other event is admitted. -/
inductive Interjection where
  | delivery (source : DeliverySource)
  | requestStart (c : ConverterId)
  | timed (e : TimedEvent)
  | transaction (opening : Option Byte) (bytes : List Byte)
  | transactionEnd
deriving DecidableEq, Repr

/-- An event that is taken just before a claim (log 15). -/
structure Between where
  claim : Claim
  event : Interjection
deriving DecidableEq, Repr

/-- What a port does at its own EXECUTING window before the command's answer: it writes a frame (spec/10 R170, R184) or reads
`count` bytes (R172). -/
inductive OwnTransaction where
  | write
  | read (count : Nat)
deriving DecidableEq, Repr

/-- The tag of a command that is made of several claims, with what comes between them and what its own port does before the
answer (log 15). -/
structure Interleaved where
  tag : Byte
  between : List Between
  own : List OwnTransaction
deriving DecidableEq, Repr

/-- How far a read goes: its bytes, and whether its transaction then ends or is left in progress (log 20). -/
structure ReadExtent where
  bytes : Nat
  ended : Bool
deriving DecidableEq, Repr

/-- The commands of the part, one constructor for each row of spec/opcode_table.json. -/
inductive Instr where
  /-- IDENTIFY, 01h (R182). -/
  | identify (p : Port) (tag : Byte)
  /-- CREATE_WATCH, 10h (R22). -/
  | createWatch (p : Port) (tag : Byte) (block : DefBlock)
  /-- MODIFY_WATCH, 11h (R23 to R26). -/
  | modifyWatch (p : Port) (tag : Byte) (h : Handle) (block : DefBlock)
  /-- WRITE_BANK, 12h (R27, R28). -/
  | writeBank (p : Port) (tag : Byte) (h : Handle) (bank : BankBlock)
  /-- SWAP_BANK, 13h (R29). -/
  | swapBank (p : Port) (tag : Byte) (h : Handle)
  /-- ARM, 14h (R31, R32); the first delay counts 100 µs units. -/
  | arm (p : Port) (tag : Byte) (h : Handle) (delay : Half)
  /-- DISARM, 15h (R33 to R36). -/
  | disarm (p : Port) (tag : Byte) (h : Handle)
  /-- RETIRE, 16h (R37 to R40). -/
  | retire (p : Port) (tag : Byte) (h : Handle)
  /-- SAMPLE, 17h (R42). -/
  | sample (p : Port) (tag : Byte) (h : Handle)
  /-- READ_WATCH, 20h (R43). -/
  | readWatch (p : Port) (tag : Byte) (h : Handle)
  /-- READ_VALUE, 21h (R44). -/
  | readValue (p : Port) (tag : Byte) (h : Handle)
  /-- LIST_WATCHES, 22h (R45). -/
  | listWatches (p : Port) (tag : Byte)
  /-- FETCH_ATTENTION, 30h (R159). -/
  | fetchAttention (p : Port) (tag : Byte)
  /-- ATTENTION_ENABLE, 31h (R162). -/
  | attentionEnable (p : Port) (tag : Byte) (value : Byte)
  /-- SET_CORRECTION, 40h (R110). -/
  | setCorrection (p : Port) (tag : Byte) (input range : Byte) (gain offset : Half)
  /-- READ_CORRECTION, 41h (R111). -/
  | readCorrection (p : Port) (tag : Byte) (input range : Byte)
  /-- SET_FILTER, 48h (R117). -/
  | setFilter (p : Port) (tag : Byte) (input setting : Byte)
  /-- READ_INPUTS, 49h (R78, R119). -/
  | readInputs (p : Port) (tag : Byte)
  /-- TRIGGER_CONFIG, 50h (R75). -/
  | triggerConfig (p : Port) (tag : Byte) (line mode edge : Byte)
  /-- TRIGGER_REARM, 51h (R76). -/
  | triggerRearm (p : Port) (tag : Byte) (line : Byte)
  /-- HOLD, 58h (R61). -/
  | hold (p : Port) (tag : Byte)
  /-- RESUME, 59h (R62), with what comes between the claims of its resume work and before its answer (R64, log 15). -/
  | resume (p : Port) (tag : Interleaved)
  /-- REFERENCE_CHECK, 60h (R98). -/
  | referenceCheck (p : Port) (tag : Byte)
  /-- READ_CONVERTERS, 61h (R102). -/
  | readConverters (p : Port) (tag : Byte)
  /-- PORT_RESET, 7Fh (R184), with what comes between its retirements and the claims of its resume work, and before its
  answer (R41, R64, log 15). -/
  | portReset (p : Port) (tag : Interleaved)
  /-- REQUEST_FRAME (R167): whole bytes of a transaction. With `opening` a new transaction begins with that direction byte
  (port A) or address byte (port B); without it the bytes continue the transaction in progress, and no bytes at all are the
  next edge of SCL (log 16, log 19). -/
  | requestFrame (p : Port) (opening : Option Byte) (bytes : List Byte)
  /-- PARTIAL_FRAME_DISCARD (R167): the transaction in progress on the port ends. -/
  | partialFrameDiscard (p : Port)
  /-- COLLIDING_WRITE (R170): a write transaction begins while the port's window is EXECUTING. -/
  | collidingWrite (p : Port)
  /-- RESPONSE_READ (R172): a transaction that opens with that byte and reads `count.bytes` bytes; where it has not ended, it
  is left in progress (log 20). -/
  | responseRead (p : Port) (opening : Byte) (count : ReadExtent)
  /-- STALL_TIMEOUT (R175): SCL has stayed low for 25 ms in a transaction of port B. -/
  | stallTimeout
  /-- POWER_ON_RESET (R19 and the reset rules of every chapter). -/
  | powerOnReset (pins : PinLevels)
  /-- RESET_ASSERTION (R20 and the reset rules of every chapter). -/
  | resetAssertion
  /-- BECOME_PAST_DUE (R49). -/
  | becomePastDue (i : EntryIndex)
  /-- BECOME_LATE (R49). -/
  | becomeLate (i : EntryIndex)
  /-- INTERVAL_EXPIRY (R50) of the head of the due list. -/
  | intervalExpiry
  /-- TRG_TRANSITION (R69, R70): the pin's raw level is now `level` and stays for up to `held` µs; a fan-out it begins examines
  `examined` entries before other claims come between (log 7, log 8). -/
  | trgTransition (line : TrgLine) (level : Level) (held examined : Nat)
  /-- WAITING_EDGE (R73): the line's fan-out goes on, and where it ends the waiting edge is taken; `examined` entries are
  examined in all (log 8). -/
  | waitingEdge (line : TrgLine) (examined : Nat)
  /-- WARMUP_EXPIRY (R83). -/
  | warmupExpiry (c : ConverterId)
  /-- REQUEST_START (R84). -/
  | requestStart (c : ConverterId)
  /-- SETTLE_EXPIRY (R85). -/
  | settleExpiry (c : ConverterId)
  /-- CONVERSION_COMPLETION (R93); `level` is the level that was sampled, in µV (log 5). -/
  | conversionCompletion (c : ConverterId) (level : Int)
  /-- CHECK_COMPLETION (R99); `level` is the level of the check source as sampled, in µV (log 5). -/
  | checkCompletion (c : ConverterId) (level : Int)
  /-- DIN_TRANSITION (R115): the pin's raw level is now `level` and stays for up to `held` µs (log 7). -/
  | dinTransition (n : TimingInput) (level : Level) (held : Nat)
  /-- LIMIT_EXPIRY (R128). -/
  | limitExpiry (e : EngineIndex)
  /-- GATE_EXPIRY (R127). -/
  | gateExpiry (e : EngineIndex)
  /-- DELIVERY (R140). -/
  | delivery (source : DeliverySource)
  /-- RESET_DEASSERTION (R46). -/
  | resetDeassertion (pins : PinLevels)
deriving DecidableEq, Repr

end Sys2Proof
end

