-- ==== Sys2Proof/Machine/State.lean ====
section
/-! DEFINITION. The state of the part as plain data: everything spec/ gives it, the queue of waiting commands, and the
state after power-on reset. -/

namespace Sys2Proof.Machine

/-! ### The watch table (spec/01) -/

/-- The states of an entry (R1, R8). -/
inductive EntryState where
  | free
  | defined
  | armed
  | retiring
deriving DecidableEq, Repr

/-- The measurement work that names a watch (R10). -/
inductive Activity where
  | none
  | queued
  | converting
  | awaitingEngine
  | measuring
deriving DecidableEq, Repr

/-- The kinds of a watch (R2). -/
inductive Kind where
  | level
  | period
  | highTime
  | edgeCount
deriving DecidableEq, Repr

/-- The timing kinds (R2). -/
inductive TimingKind where
  | period
  | highTime
  | edgeCount
deriving DecidableEq, Repr

/-- The active edge of a timing measurement (R2). -/
inductive Polarity where
  | rising
  | falling
deriving DecidableEq, Repr

/-- What is measured: the kind with the fields R2 gives to that kind and to no other. -/
inductive Measure where
  /-- LEVEL: input, range 0-3, settle time in units of 10 µs. -/
  | level (input : AnalogInput) (range : Fin 4) (settle : Nat)
  /-- A timing kind: input, polarity, and the limit (PERIOD, HIGH_TIME) or gate (EDGE_COUNT) in ms. -/
  | timing (kind : TimingKind) (input : TimingInput) (polarity : Polarity) (span : Nat)
deriving DecidableEq, Repr

/-- What begins each measurement (R2); the interval, in units of 100 µs, is present for INTERVAL alone. -/
inductive Start where
  | interval (units : Nat)
  | trg (line : TrgLine)
  | command
deriving DecidableEq, Repr

/-- Whether a watch disarms itself at its first outcome (R2). -/
inductive Lifetime where
  | standing
  | once
deriving DecidableEq, Repr

/-- The overrun policy (R2). -/
inductive Policy where
  | hold
  | drop
deriving DecidableEq, Repr

/-- Whether the other port may read the watch (R2). `closed` is the manual's PRIVATE. -/
inductive Share where
  | closed
  | shared
deriving DecidableEq, Repr

/-- The two banks of a watch (R2). -/
inductive BankId where
  | a
  | b
deriving DecidableEq, Repr

/-- A set of causes as the manual numbers them: bit 0 RESULT, bit 1 CONDITION, bit 2 OVERRUN, bit 3 FAULT, bit 4 BANK (R178). -/
abbrev CauseSet := BitVec 5

/-- The fields of a definition that a definition block carries, the banks apart (R2, R179). -/
structure Contract where
  measure : Measure
  start : Start
  lifetime : Lifetime
  policy : Policy
  qualify : Nat
  notify : CauseSet
  share : Share
deriving DecidableEq, Repr

/-- A threshold window (R3). -/
structure Threshold where
  low : Int
  high : Int
  hysteresis : Int
deriving DecidableEq, Repr

/-- The definition of a watch (R2). -/
structure Definition where
  contract : Contract
  owner : Port
  bankA : Option Threshold
  bankB : Option Threshold
  active : BankId
deriving DecidableEq, Repr

/-- The statuses of an outcome (R7). -/
inductive OutcomeStatus where
  | normal
  | clipped
  | stalled
  | fault
deriving DecidableEq, Repr

/-- The latest outcome of a watch (R7). -/
structure Outcome where
  status : OutcomeStatus
  value : Int
  timestamp : DeviceTime
deriving DecidableEq, Repr

/-- The judged state of a signal (R6). -/
inductive Condition where
  | unknown
  | below
  | inside
  | above
deriving DecidableEq, Repr

/-- The classes a judgement can propose: the conditions but UNKNOWN (R147). -/
inductive SignalClass where
  | below
  | inside
  | above
deriving DecidableEq, Repr

/-- A proposed new condition with the outcomes that have supported it (R6). -/
structure Candidate where
  proposed : SignalClass
  count : Nat
deriving DecidableEq, Repr

/-- The dynamic part of a watch (R6). -/
structure Dynamic where
  outcome : Option Outcome
  sequence : BitVec 16
  condition : Condition
  candidate : Option Candidate
  swapPending : Bool
  heldTrigger : Bool
  overruns : Nat
  due : Option DeviceTime
deriving DecidableEq, Repr

/-- A watch: its definition and its dynamic part (R1). -/
structure Watch where
  defn : Definition
  dyn : Dynamic
deriving DecidableEq, Repr

/-- One entry of the watch table (R1). -/
structure Entry where
  state : EntryState
  generation : BitVec 4
  activity : Activity
  watch : Option Watch
deriving DecidableEq, Repr

/-! ### The scheduler (spec/03) -/

/-- The lateness status of a due-list member (R49). -/
inductive Lateness where
  | onTime
  | pastDue
  | late
deriving DecidableEq, Repr

/-- A member of the due list; its due time is the due time of the entry's watch (R48). -/
structure DueMember where
  entry : EntryIndex
  lateness : Lateness
deriving DecidableEq, Repr

/-- How a start request was taken (R54 to R56). -/
inductive Disposition where
  | started
  | joined
  | heldTrigger
  | overrun
deriving DecidableEq, Repr

/-! ### The trigger unit (spec/04) -/

/-- What an accepted edge does (R68). -/
inductive TrgMode where
  | off
  | every
  | once
deriving DecidableEq, Repr

/-- Which transitions a trigger line accepts (R68). -/
inductive TrgEdge where
  | rising
  | falling
  | both
deriving DecidableEq, Repr

/-- Whether a ONCE line will still fan out (R68). -/
inductive SubState where
  | ready
  | spent
deriving DecidableEq, Repr

/-- The context of one trigger line (R68), with the pin behind its filter (R69) and the fan-out in progress (R73). -/
structure TrgContext where
  mode : TrgMode
  edge : TrgEdge
  sub : Option SubState
  level : Level
  count : BitVec 16
  waiting : Bool
  raw : Level
  /-- How long the pin has held its raw level, in µs, counted up to `Config.longestFilterMicros`. -/
  rawHeld : Nat
  /-- The next entry that the fan-out in progress examines. -/
  fanOut : Option Nat
deriving DecidableEq, Repr

/-! ### The conversion path (spec/05) -/

/-- The states of a converter (R81). -/
inductive ConverterState where
  | warmup
  | idle
  | settling
  | converting
deriving DecidableEq, Repr

/-- What a request converts; a NORMAL request an analog input, a CHECK request the internal check source (R82). -/
inductive RequestSource where
  | ain (input : AnalogInput)
  | checkSource
deriving DecidableEq, Repr

/-- A conversion request (R82): NORMAL where its source is an analog input, CHECK where it is the check source. The subscriber
set is kept in ascending order, so that equal sets are equal data. -/
structure Request where
  source : RequestSource
  range : Fin 4
  settle : Nat
  subscribers : List EntryIndex
deriving DecidableEq, Repr

/-- An outcome on its way to a watch: a status and, but for FAULT, a value (R137). -/
structure Delivered where
  status : OutcomeStatus
  value : Option Int
deriving DecidableEq, Repr

/-- One converter (R81). -/
structure Converter where
  state : ConverterState
  queue : List Request
  current : Option Request
  fault : Bool
  /-- Microseconds left of the settle or the conversion (R84, R85). -/
  timer : Nat
  /-- The outcome of the current request, from its completion until its last delivery (R93, R95). -/
  delivering : Option Delivered
deriving DecidableEq, Repr

/-- The result of one CHECK conversion (R97, R99). -/
structure CheckResult where
  code : Nat
  pass : Bool
deriving DecidableEq, Repr

/-- The reference check context (R97); a check is in progress exactly while it has an issuing port. -/
structure CheckContext where
  issuer : Option Port
  result0 : Option CheckResult
  result1 : Option CheckResult
deriving DecidableEq, Repr

/-! ### The correction table (spec/06) -/

/-- One entry of the correction table (R105). -/
structure Correction where
  gain : Nat
  offset : Int
deriving DecidableEq, Repr

/-! ### The timing unit (spec/07) -/

/-- The filter settings of a DIN input (R115). -/
inductive FilterSetting where
  | off
  | us2
  | us50
  | ms1
deriving DecidableEq, Repr

/-- The filter context of one DIN input (R115), with the pin behind it. -/
structure DinContext where
  setting : FilterSetting
  level : Level
  raw : Level
  /-- How long the pin has held its raw level, in µs, counted up to `Config.longestFilterMicros`. -/
  rawHeld : Nat
deriving DecidableEq, Repr

/-- The states of a capture engine (R121). -/
inductive EngineState where
  | free
  | awaitStart
  | timing
  | gating
  | reserved
deriving DecidableEq, Repr

/-- The measurement an engine copies from its holder at assignment (R121). -/
structure Measurement where
  kind : TimingKind
  input : TimingInput
  polarity : Polarity
deriving DecidableEq, Repr

/-- One capture engine (R121). -/
structure Engine where
  state : EngineState
  holder : Option EntryIndex
  measurement : Option Measurement
  /-- The limit or gate, in µs after assignment. -/
  expiry : Nat
  /-- Microseconds since the assignment (R123). -/
  age : Nat
  /-- Microseconds since the starting edge. -/
  elapsed : Nat
  /-- Active edges seen. -/
  count : Nat
  /-- The outcome that a RESERVED engine delivers (R129). -/
  outcome : Option Delivered
deriving DecidableEq, Repr

/-! ### The attention unit (spec/09) -/

/-- The attention context of one port (R156). The map holds one cause set for each entry; the empty set is no member. -/
structure Attention where
  causes : Vector CauseSet 64
  cursor : EntryIndex
  enable : Bool
deriving DecidableEq, Repr

/-! ### The ports (spec/10) -/

/-- The statuses of a response (R176). -/
inductive Status where
  | ok
  | frameError
  | unknownCommand
  | badLength
  | badParameter
  | badHandle
  | staleHandle
  | notOwner
  | badState
  | tableFull
  | held
  | queueFull
  | inputBusy
  | checkBusy
  | empty
deriving DecidableEq, Repr

/-- A response held for reading (R169). -/
structure Response where
  status : Status
  /-- The collision marker. -/
  marker : Bool
  tag : Byte
  data : List Byte
deriving DecidableEq, Repr

/-- The command window of a port (R166). -/
inductive CommandWindow where
  | idle
  | receiving (bytes : List Byte)
  | executing (tag : Byte) (marker : Bool)
  | ready (response : Response)
deriving DecidableEq, Repr

/-- The transaction in progress on a port's bus (R166, R167, R170, R172, R173, R174). -/
inductive Bus where
  /-- No transaction. -/
  | none
  /-- A request write whose first frame byte has not come. -/
  | opened
  /-- A request write whose bytes go to the window. -/
  | receiving
  /-- A request write that began on an EXECUTING window. -/
  | discarding
  /-- A response read that found the window so when it began, and the number of bytes transmitted (R172). -/
  | reading (found : CommandWindow) (sent : Nat)
  /-- The rest of the transaction has no effect: its frame is complete, or the part does not take it. -/
  | ignoring
deriving DecidableEq, Repr

/-- One port: its command window, its bus and what its master last received. -/
structure PortState where
  window : CommandWindow
  bus : Bus
  /-- The bytes the port drove to its master in the latest transaction (log 25). -/
  driven : List Byte
  /-- Whether the part took the latest transaction as addressed to it (log 25). -/
  acknowledged : Bool
  /-- The level of SCL, at port B (R174, R175); port A has none, and the field stays high. -/
  scl : Level
  /-- The stall timer: microseconds that SCL has stayed low in port B's transaction in progress (R175). -/
  stall : Nat
deriving DecidableEq, Repr

/-! ### The machine -/

/-- DESIGN CHOICE, safe. No command of the part stops it (INVENTORY, Faults), so there is no fault to name. -/
inductive Fault where
deriving DecidableEq, Repr

/-- The refusals of the model. -/
inductive Refusal where
  /-- Raised by `exec` for a row that has no meaning yet. Safe: the model stops. No row of this table is refused. -/
  | notModelled (mnemonic : String)
deriving DecidableEq, Repr

/-- The state of the part. -/
structure State where
  /-- The watch table (R1). -/
  entries : Vector Entry 64
  /-- Device time (R46). -/
  now : DeviceTime
  /-- Microseconds since device time last advanced (log 2). -/
  micro : Fin 10
  /-- The due list (R48). -/
  dueList : List DueMember
  /-- Port A's hold claim (R61). -/
  holdA : Bool
  /-- Port B's hold claim (R61). -/
  holdB : Bool
  /-- TRG0 (R68). -/
  trg0 : TrgContext
  /-- TRG1 (R68). -/
  trg1 : TrgContext
  /-- C0 (R81). -/
  conv0 : Converter
  /-- C1 (R81). -/
  conv1 : Converter
  /-- The reference check context (R97). -/
  check : CheckContext
  /-- The correction table; entry `4 * input + range` (R105). -/
  corrections : Vector Correction 64
  /-- The DIN filters (R115). -/
  dins : Vector DinContext 8
  /-- The capture engines (R121). -/
  engines : Vector Engine 4
  /-- The engine wait list, oldest first (R122). -/
  waitList : List EntryIndex
  /-- Port A's attention context (R156). -/
  attentionA : Attention
  /-- Port B's attention context (R156). -/
  attentionB : Attention
  /-- Port A (R166). -/
  portA : PortState
  /-- Port B (R166). -/
  portB : PortState
  /-- Port B's latched address (R174). -/
  addressB : BitVec 7
  /-- Whether RESET# is asserted (log 9). -/
  resetAsserted : Bool
  /-- The model's own: where `Config.sampledLevel` is read next (log 6). -/
  samples : Nat
  /-- The commands that wait, first in, first out. -/
  pending : List Instr
deriving DecidableEq, Repr

/-! ### Reset values -/

/-- An entry at power-on reset (R19). -/
def Entry.powerOn : Entry := ⟨.free, 0, .none, none⟩

/-- A trigger line after a reset (R79); its level is its pin's. -/
def TrgContext.afterReset (pin : Level) : TrgContext := ⟨.off, .rising, none, pin, 0, false, pin, 0, none⟩

/-- A converter after a reset (R103). -/
def Converter.afterReset : Converter := ⟨.warmup, [], none, false, 0, none⟩

/-- The reference check context after a reset (R103). -/
def CheckContext.afterReset : CheckContext := ⟨none, none, none⟩

/-- The identity entry of the correction table (R105, R113). -/
def Correction.identity : Correction := ⟨32768, 0⟩

/-- A DIN filter after a reset (R120); its level is its pin's. -/
def DinContext.afterReset (pin : Level) : DinContext := ⟨.off, pin, pin, 0⟩

/-- A capture engine that is FREE (R121, R135). -/
def Engine.freed : Engine := ⟨.free, none, none, 0, 0, 0, 0, none⟩

/-- An attention context after a reset (R165). -/
def Attention.afterReset : Attention := ⟨Vector.replicate 64 0, 0, false⟩

/-- A port after a reset (R166). -/
def PortState.afterReset : PortState := ⟨.idle, .none, [], false, .high, 0⟩

/-- Port B's address: 58h plus the value of ADR1 and ADR0 (R174). -/
def portBAddress (adr : BitVec 2) : BitVec 7 := 0x58#7 + adr.setWidth 7

/-- The DIN filters after a reset, one for each pin level (R120). -/
def dinsAfterReset (pins : PinLevels) : Vector DinContext 8 :=
  #v[.afterReset pins.din[0], .afterReset pins.din[1], .afterReset pins.din[2], .afterReset pins.din[3],
     .afterReset pins.din[4], .afterReset pins.din[5], .afterReset pins.din[6], .afterReset pins.din[7]]

/-- Every block at its power-on values, the pins at the levels given (R19, R46, R67, R79, R103, R113, R120, R135, R165,
R166). -/
def State.powerOn (pins : PinLevels) : State where
  entries := Vector.replicate 64 Entry.powerOn
  now := 0
  micro := 0
  dueList := []
  holdA := false
  holdB := false
  trg0 := TrgContext.afterReset pins.trg0
  trg1 := TrgContext.afterReset pins.trg1
  conv0 := Converter.afterReset
  conv1 := Converter.afterReset
  check := CheckContext.afterReset
  corrections := Vector.replicate 64 Correction.identity
  dins := dinsAfterReset pins
  engines := Vector.replicate 4 Engine.freed
  waitList := []
  attentionA := Attention.afterReset
  attentionB := Attention.afterReset
  portA := PortState.afterReset
  portB := PortState.afterReset
  addressB := portBAddress pins.adr
  resetAsserted := false
  samples := 0
  pending := []

/-- DESIGN CHOICE, unsafe (log 10). The pins of `State.reset`: all low, ADR1 and ADR0 both 0. The spec gives the pins no level. -/
def resetPins : PinLevels := ⟨.low, .low, Vector.replicate 8 .low, 0⟩

/-- The part right after power-on reset, RESET# not asserted. -/
def State.reset : State := State.powerOn resetPins

end Sys2Proof.Machine
end

