-- ==== Sys2Proof/Machine/Ops.lean ====
section
/-! DEFINITION. The named reads and writes of the state, and the small arithmetic that several blocks share. A meaning reaches
the state through these alone. -/

namespace Sys2Proof.Machine

/-- The other port. -/
def otherPort : Port → Port
  | .a => .b
  | .b => .a

/-- The entry indices in ascending order. -/
def allEntries : List EntryIndex := (List.range 64).map (Fin.ofNat 64)

/-- The engines in ascending order. -/
def allEngines : List EngineIndex := [0, 1, 2, 3]

/-- The DIN inputs in ascending order. -/
def allDins : List TimingInput := [0, 1, 2, 3, 4, 5, 6, 7]

/-! ### Reads and writes by name -/

def State.entry (s : State) (i : EntryIndex) : Entry := s.entries[i]

def State.setEntry (s : State) (i : EntryIndex) (e : Entry) : State :=
  { s with entries := s.entries.set i e }

def State.engine (s : State) (e : EngineIndex) : Engine := s.engines[e]

def State.setEngine (s : State) (e : EngineIndex) (v : Engine) : State :=
  { s with engines := s.engines.set e v }

def State.din (s : State) (n : TimingInput) : DinContext := s.dins[n]

def State.setDin (s : State) (n : TimingInput) (v : DinContext) : State :=
  { s with dins := s.dins.set n v }

def State.converter (s : State) : ConverterId → Converter
  | .c0 => s.conv0
  | .c1 => s.conv1

def State.setConverter (s : State) (c : ConverterId) (v : Converter) : State :=
  match c with
  | .c0 => { s with conv0 := v }
  | .c1 => { s with conv1 := v }

def State.line (s : State) : TrgLine → TrgContext
  | .trg0 => s.trg0
  | .trg1 => s.trg1

def State.setLine (s : State) (l : TrgLine) (v : TrgContext) : State :=
  match l with
  | .trg0 => { s with trg0 := v }
  | .trg1 => { s with trg1 := v }

def State.attention (s : State) : Port → Attention
  | .a => s.attentionA
  | .b => s.attentionB

def State.setAttention (s : State) (p : Port) (v : Attention) : State :=
  match p with
  | .a => { s with attentionA := v }
  | .b => { s with attentionB := v }

def State.port (s : State) : Port → PortState
  | .a => s.portA
  | .b => s.portB

def State.setPort (s : State) (p : Port) (v : PortState) : State :=
  match p with
  | .a => { s with portA := v }
  | .b => { s with portB := v }

def State.hold (s : State) : Port → Bool
  | .a => s.holdA
  | .b => s.holdB

def State.setHold (s : State) (p : Port) (v : Bool) : State :=
  match p with
  | .a => { s with holdA := v }
  | .b => { s with holdB := v }

/-- The scheduler is held while either claim is set (R61). -/
def State.isHeld (s : State) : Bool := s.holdA || s.holdB

/-- Where the correction entry of an input and range stands (R105). -/
def correctionIndex (input : AnalogInput) (range : Fin 4) : EntryIndex :=
  ⟨4 * input.val + range.val, by omega⟩

def State.correction (s : State) (input : AnalogInput) (range : Fin 4) : Correction :=
  s.corrections[correctionIndex input range]

def State.setCorrection (s : State) (input : AnalogInput) (range : Fin 4) (v : Correction) : State :=
  { s with corrections := s.corrections.set (correctionIndex input range) v }

def CheckContext.result (k : CheckContext) : ConverterId → Option CheckResult
  | .c0 => k.result0
  | .c1 => k.result1

def CheckContext.setResult (k : CheckContext) (c : ConverterId) (r : CheckResult) : CheckContext :=
  match c with
  | .c0 => { k with result0 := some r }
  | .c1 => { k with result1 := some r }

/-! ### Entries and watches -/

def State.setActivity (s : State) (i : EntryIndex) (a : Activity) : State :=
  s.setEntry i { s.entry i with activity := a }

/-- Changes the watch of entry `i`, where it carries one. -/
def State.updateWatch (s : State) (i : EntryIndex) (f : Watch → Watch) : State :=
  match (s.entry i).watch with
  | none => s
  | some w => s.setEntry i { s.entry i with watch := some (f w) }

/-- DEFINED and ARMED, the states in which a watch can be named (R8). -/
def Entry.addressable (e : Entry) : Bool := e.state = .defined || e.state = .armed

/-- Whether `p` owns the watch of entry `i` and the entry is DEFINED or ARMED. -/
def State.owns (s : State) (p : Port) (i : EntryIndex) : Bool :=
  match (s.entry i).watch with
  | none => false
  | some w => (s.entry i).addressable && decide (w.defn.owner = p)

def BankId.other : BankId → BankId
  | .a => .b
  | .b => .a

def Definition.bank (d : Definition) : BankId → Option Threshold
  | .a => d.bankA
  | .b => d.bankB

def Definition.setBank (d : Definition) (k : BankId) (t : Option Threshold) : Definition :=
  match k with
  | .a => { d with bankA := t }
  | .b => { d with bankB := t }

def Definition.activeBank (d : Definition) : Option Threshold := d.bank d.active

def Definition.inactiveBank (d : Definition) : Option Threshold := d.bank d.active.other

def Measure.kind : Measure → Kind
  | .level .. => .level
  | .timing .period .. => .period
  | .timing .highTime .. => .highTime
  | .timing .edgeCount .. => .edgeCount

/-- The lowest and highest threshold a window of the kind may hold (R3). -/
def Kind.limits : Kind → Int × Int
  | .level => (-2048, 4095)
  | _ => (0, 2147483647)

/-- The dynamic part at creation (R6, R17). -/
def Dynamic.atCreation : Dynamic := ⟨none, 0, .unknown, none, false, false, 0, none⟩

/-- C0 serves AIN0 to AIN7, C1 serves AIN8 to AIN15 (R80). -/
def servingConverter (input : AnalogInput) : ConverterId := if input.val < 8 then .c0 else .c1

/-! ### Device time (R47) -/

/-- `t` has been reached when (now - t) modulo 2^32 is less than 2^31. -/
def reached (t now : DeviceTime) : Bool := (now - t).toNat < 2 ^ 31

/-- An interval or first delay, converted from 100 µs to the 10 µs units of device time (R32, R50). -/
def intervalUnits (n : Nat) : DeviceTime := BitVec.ofNat 32 (n * Config.unitsPerInterval)

/-- Microseconds until `t` is reached, 0 where it has been. -/
def State.microsUntil (s : State) (t : DeviceTime) : Nat :=
  if reached t s.now then 0 else (t - s.now).toNat * Config.unitMicros - s.micro.val

/-! ### Sets kept in ascending order -/

/-- Adds `i` to an ascending list without repeats. -/
def insertIndex (i : EntryIndex) : List EntryIndex → List EntryIndex
  | [] => [i]
  | j :: js => if i < j then i :: j :: js else if i = j then j :: js else j :: insertIndex i js

/-! ### The due list (R48) -/

/-- Whether a member stands before a watch that joins the list with due time `due`: its own due time has been reached, or it
is due earlier, or at the same time and its index is lower. -/
def State.dueBefore (s : State) (m : DueMember) (i : EntryIndex) (due : DeviceTime) : Bool :=
  match (s.entry m.entry).watch.bind (·.dyn.due) with
  | none => true
  | some d =>
    m.lateness ≠ .onTime || reached d s.now || decide ((d - s.now).toNat < (due - s.now).toNat) ||
      (decide (d = due) && decide (m.entry < i))

def insertDue (before : DueMember → Bool) (m : DueMember) : List DueMember → List DueMember
  | [] => [m]
  | x :: xs => if before x then x :: insertDue before m xs else m :: x :: xs

/-- Watch `i` joins the due list ON_TIME with due time `due` (R48). -/
def State.joinDueList (s : State) (i : EntryIndex) (due : DeviceTime) : State :=
  let s' := s.updateWatch i fun w => { w with dyn := { w.dyn with due := some due } }
  { s' with dueList := insertDue (fun m => s.dueBefore m i due) ⟨i, .onTime⟩ s.dueList }

/-- Watch `i` leaves the due list and its due time becomes absent (R48). -/
def State.leaveDueList (s : State) (i : EntryIndex) : State :=
  let s' := s.updateWatch i fun w => { w with dyn := { w.dyn with due := none } }
  { s' with dueList := s.dueList.filter fun m => decide (m.entry ≠ i) }

/-- The lateness status of watch `i` in the due list (R49). -/
def State.lateness (s : State) (i : EntryIndex) : Option Lateness :=
  (s.dueList.find? fun m => decide (m.entry = i)).map (·.lateness)

/-- Sets the lateness status of watch `i` in its place (R49). -/
def State.setLateness (s : State) (i : EntryIndex) (l : Lateness) : State :=
  { s with dueList := s.dueList.map fun m => if m.entry = i then { m with lateness := l } else m }

end Sys2Proof.Machine
end

