-- ==== Sys2Proof/Machine/Flags.lean ====
section
/-! DEFINITION. Causes and attention: the notify mask, the attention sets, the attention lines and the overrun count
(spec/08 section 8.7, spec/09, spec/03 R57). -/

namespace Sys2Proof.Machine

def CauseSet.result : CauseSet := 0b00001
def CauseSet.condition : CauseSet := 0b00010
def CauseSet.overrun : CauseSet := 0b00100
def CauseSet.fault : CauseSet := 0b01000
def CauseSet.bank : CauseSet := 0b10000

/-- An addition to port `p`'s attention set: the causes merge into, or create, the member of entry `i`; an empty addition
changes nothing (R157). -/
def State.addCauses (s : State) (p : Port) (i : EntryIndex) (cs : CauseSet) : State :=
  let a := s.attention p
  s.setAttention p { a with causes := a.causes.set i (a.causes[i] ||| cs) }

/-- Raises causes on the watch of entry `i`: those in its notify mask go to its owner's attention set (R152). Raisings within
one step make one addition, since a member only ever grows by union. -/
def State.raise (s : State) (i : EntryIndex) (cs : CauseSet) : State :=
  match (s.entry i).watch with
  | none => s
  | some w => s.addCauses w.defn.owner i (cs &&& w.defn.contract.notify)

/-- Whether an attention set has a member. -/
def Attention.nonempty (a : Attention) : Bool := a.causes.toList.any fun c => c != 0

/-- The number of members of an attention set. -/
def Attention.members (a : Attention) : Nat := a.causes.toList.countP fun c => c != 0

/-- Whether port `p`'s attention line, ATTA# or ATTB#, is asserted (R158). -/
def State.attentionLine (s : State) (p : Port) : Bool :=
  (s.attention p).enable && (s.attention p).nonempty

/-- Removes the member of entry `i` from port `p`'s attention set; the cursor stays (R163). -/
def State.removeMember (s : State) (p : Port) (i : EntryIndex) : State :=
  let a := s.attention p
  s.setAttention p { a with causes := a.causes.set i 0 }

/-- The overrun count advances by one and stays at 255 (R57). -/
def advanceOverruns (n : Nat) : Nat := min Config.overrunCeiling (n + 1)

/-- An overrun of the watch of entry `i`: the count advances and OVERRUN is raised (R57). -/
def State.countOverrun (s : State) (i : EntryIndex) : State :=
  (s.updateWatch i fun w => { w with dyn := { w.dyn with overruns := advanceOverruns w.dyn.overruns } }).raise i
    CauseSet.overrun

/-- The member that a fetch selects: the lowest index at or after the cursor, else the lowest from 0 (R159). -/
def Attention.select (a : Attention) : Option EntryIndex :=
  let members := allEntries.filter fun i => a.causes[i] != 0
  (members.find? fun i => decide (a.cursor ≤ i)).or members.head?

end Sys2Proof.Machine
end

