-- ==== Sys2Proof/Machine/Outcomes.lean ====
section
/-! DEFINITION. What a delivered outcome does to a watch: recording, the pending swap, evaluation and qualification
(spec/08). Everything here is a function of the watch alone. -/

namespace Sys2Proof.Machine

def SignalClass.condition : SignalClass → Condition
  | .below => .below
  | .inside => .inside
  | .above => .above

/-- The recorded outcome: a FAULT keeps the value that stood, or 0 (R141). -/
def Outcome.recorded (prior : Option Outcome) (o : Delivered) (now : DeviceTime) : Outcome where
  status := o.status
  value := match o.value with
    | some v => v
    | none => (prior.map (·.value)).getD 0
  timestamp := now

/-- Recording: the latest outcome is written and the sequence advances (R141). -/
def Watch.record (w : Watch) (o : Delivered) (now : DeviceTime) : Watch :=
  { w with dyn := { w.dyn with outcome := some (Outcome.recorded w.dyn.outcome o now), sequence := w.dyn.sequence + 1 } }

/-- The active bank toggles, the swap is no longer pending and the candidate is cleared (R29, R33, R143). -/
def Watch.toggleBanks (w : Watch) : Watch :=
  { defn := { w.defn with active := w.defn.active.other }
    dyn := { w.dyn with swapPending := false, candidate := none } }

/-- A pending swap is taken, and raises BANK (R143). -/
def Watch.takeSwap (w : Watch) : Watch × CauseSet :=
  if w.dyn.swapPending then (w.toggleBanks, CauseSet.bank) else (w, 0)

/-- The target class of a value (R147). -/
def targetClass (c : Condition) (t : Threshold) (v : Int) : SignalClass :=
  match c with
  | .above => if v < t.low then .below else if v ≤ t.high - t.hysteresis then .inside else .above
  | .below => if v > t.high then .above else if v ≥ t.low + t.hysteresis then .inside else .below
  | _ => if v > t.high then .above else if v < t.low then .below else .inside

/-- The count of the candidate that proposes `target` after one more supporting outcome (R148 steps 2 and 3). -/
def supportCount (k : Option Candidate) (target : SignalClass) : Nat :=
  match k with
  | none => 1
  | some c => if c.proposed = target then c.count + 1 else 1

/-- The candidate and the condition move according to the target class; CONDITION is raised when the condition changes
(R148). -/
def Watch.qualifyTo (w : Watch) (target : SignalClass) : Watch × CauseSet :=
  if target.condition = w.dyn.condition then ({ w with dyn := { w.dyn with candidate := none } }, 0)
  else if supportCount w.dyn.candidate target = w.defn.contract.qualify then
    ({ w with dyn := { w.dyn with condition := target.condition, candidate := none } }, CauseSet.condition)
  else
    ({ w with dyn := { w.dyn with candidate := some ⟨target, supportCount w.dyn.candidate target⟩ } }, 0)

/-- The fourth step of a delivery to an ARMED watch: a FAULT raises FAULT and clears the candidate (R145), any other outcome
is evaluated where the active bank is present (R146). -/
def Watch.judge (w : Watch) (o : Delivered) : Watch × CauseSet :=
  match o.value with
  | none => ({ w with dyn := { w.dyn with candidate := none } }, CauseSet.fault)
  | some v =>
    match w.defn.activeBank with
    | none => (w, 0)
    | some t => w.qualifyTo (targetClass w.dyn.condition t v)

/-- Steps 1 to 4 of a delivery to an ARMED watch, with the causes they raise (R140). -/
def Watch.deliver (w : Watch) (o : Delivered) (now : DeviceTime) : Watch × CauseSet :=
  let swapped := (w.record o now).takeSwap
  let judged := swapped.1.judge o
  (judged.1, swapped.2 ||| CauseSet.result ||| judged.2)

end Sys2Proof.Machine
end

