-- ==== Sys2Proof/Machine/Clock.lean ====
section
/-! DEFINITION. Time. How long until each timed event is due, the passing of time, and the running forward of time to an event
(log 1, log 2, log 4). -/

namespace Sys2Proof.Machine

/-- The filter time of a DIN setting in µs (R115). -/
def FilterSetting.micros : FilterSetting → Nat
  | .off => 0
  | .us2 => 2
  | .us50 => 50
  | .ms1 => 1000

/-- Microseconds until a pin that has held `raw` for `held` µs changes a filtered level, where it is to change it at all
(R69, R115). -/
def filterLeft (raw level : Level) (held filter : Nat) : Option Nat :=
  if raw = level then none else some (filter - held)

def TrgContext.left (t : TrgContext) : Option Nat := filterLeft t.raw t.level t.rawHeld Config.trgFilterMicros

def DinContext.left (d : DinContext) : Option Nat := filterLeft d.raw d.level d.rawHeld d.setting.micros

/-- Microseconds until a converter's warm-up, settle or conversion ends (R83, R84, R85). -/
def State.converterLeft (s : State) (c : ConverterId) : Option Nat :=
  let v := s.converter c
  match v.state with
  | .warmup => some (Config.warmupUnits * Config.unitMicros - (s.now.toNat * Config.unitMicros + s.micro.val))
  | .idle => none
  | .settling => some v.timer
  | .converting => if v.delivering.isSome then none else some v.timer

/-- Microseconds until an engine's limit or gate expires (R127, R128). -/
def Engine.left (v : Engine) : Option Nat :=
  match v.state with
  | .free => none
  | .reserved => none
  | _ => some (v.expiry - v.age)

/-- Microseconds until the head of the due list expires, while the scheduler is not held (R50). -/
def State.expiryLeft (s : State) : Option Nat :=
  if s.isHeld then none else
  match s.dueList with
  | [] => none
  | m :: _ => ((s.entry m.entry).watch.bind (·.dyn.due)).map s.microsUntil

/-- Microseconds until a member of the due list becomes PAST_DUE, while the scheduler is held (R49). -/
def State.pastDueLeft (s : State) (m : DueMember) : Option Nat :=
  if s.isHeld && decide (m.lateness = .onTime) then
    ((s.entry m.entry).watch.bind (·.dyn.due)).map s.microsUntil
  else none

/-- The device time at which a PAST_DUE member becomes LATE: its due time plus its interval (R49). -/
def Watch.lateTime (w : Watch) : Option DeviceTime :=
  match w.dyn.due, w.defn.contract.start with
  | some due, .interval n => some (due + intervalUnits n)
  | _, _ => none

/-- Microseconds until a member of the due list becomes LATE, while the scheduler is held (R49). -/
def State.lateLeft (s : State) (m : DueMember) : Option Nat :=
  if s.isHeld && decide (m.lateness = .pastDue) then
    ((s.entry m.entry).watch.bind Watch.lateTime).map s.microsUntil
  else none

/-- Microseconds until the stall timer of port B runs out, while SCL is low in a transaction in progress there (R175). -/
def State.stallLeft (s : State) : Option Nat :=
  if s.portB.bus ≠ .none ∧ s.portB.scl = .low then some (Config.stallMicros - s.portB.stall) else none

/-- The times left of everything that is timed. DESIGN CHOICE (log 27): work that the part does at no stated time, an IDLE
converter's start (R84), a delivery (R95, R129), the rest of a fan-out (R73), is no timer, so time may pass before it is done. -/
def State.timers (s : State) : List Nat :=
  [s.trg0.left, s.trg1.left, s.converterLeft .c0, s.converterLeft .c1, s.expiryLeft, s.stallLeft].filterMap id ++
  s.dins.toList.filterMap DinContext.left ++ s.engines.toList.filterMap Engine.left ++
  s.dueList.filterMap s.pastDueLeft ++ s.dueList.filterMap s.lateLeft

/-- How long a pin has held its level, `n` µs later; counted no further than the longest filter time (log 26). -/
def laterHeld (held n : Nat) : Nat := max held (min Config.longestFilterMicros (held + n))

def TrgContext.elapse (n : Nat) (t : TrgContext) : TrgContext := { t with rawHeld := laterHeld t.rawHeld n }

def DinContext.elapse (n : Nat) (d : DinContext) : DinContext := { d with rawHeld := laterHeld d.rawHeld n }

def Converter.elapse (n : Nat) (v : Converter) : Converter := { v with timer := v.timer - n }

/-- An engine counts its age from assignment and its elapsed time in TIMING (R121, R123). -/
def Engine.elapse (n : Nat) (v : Engine) : Engine :=
  match v.state with
  | .free => v
  | .reserved => v
  | .timing => { v with age := v.age + n, elapsed := v.elapsed + n }
  | _ => { v with age := v.age + n }

/-- The stall timer counts while SCL is low in a transaction in progress (R175). -/
def PortState.elapse (n : Nat) (v : PortState) : PortState :=
  if v.bus ≠ .none ∧ v.scl = .low then { v with stall := v.stall + n } else v

def mapDins (f : DinContext → DinContext) (d : Vector DinContext 8) : Vector DinContext 8 :=
  #v[f d[0], f d[1], f d[2], f d[3], f d[4], f d[5], f d[6], f d[7]]

def mapEngines (f : Engine → Engine) (e : Vector Engine 4) : Vector Engine 4 :=
  #v[f e[0], f e[1], f e[2], f e[3]]

/-- `n` µs pass: device time advances by one for every 10 µs (R46), and everything timed counts them. -/
def State.elapse (s : State) (n : Nat) : State :=
  { s with
    now := s.now + BitVec.ofNat 32 ((s.micro.val + n) / 10)
    micro := Fin.ofNat 10 (s.micro.val + n)
    trg0 := s.trg0.elapse n
    trg1 := s.trg1.elapse n
    conv0 := s.conv0.elapse n
    conv1 := s.conv1.elapse n
    dins := mapDins (DinContext.elapse n) s.dins
    engines := mapEngines (Engine.elapse n) s.engines
    portB := s.portB.elapse n }

/-- DESIGN CHOICE (log 4). Runs time forward by `left`, the time left of an event, where nothing else timed is due before it:
the state in which the event is taken. Work that is due but has no time of its own does not hold time up (log 27). -/
def State.runTo (s : State) (left : Option Nat) : Option State :=
  match left with
  | none => none
  | some n => if s.timers.all fun t => decide (n ≤ t) then some (s.elapse n) else none

/-- Runs time forward by up to `n` µs, no further than to the first timed event that is due. -/
def State.dwell (s : State) (n : Nat) : State := s.elapse (s.timers.foldl min n)

end Sys2Proof.Machine
end

