-- ==== Sys2Proof/Machine/Capture.lean ====
section
/-! DEFINITION. The capture engines and their wait list: assignment, handover, abandon and the edges an engine sees
(spec/07). -/

namespace Sys2Proof.Machine

/-- The engine measurement that a watch asks for, with its limit or gate in µs; none for a LEVEL watch (R121, R123). -/
def Watch.measurement (w : Watch) : Option (Measurement × Nat) :=
  match w.defn.contract.measure with
  | .level .. => none
  | .timing k n pol span => some (⟨k, n, pol⟩, span * 1000)

/-- An engine just assigned to watch `i` (R123). -/
def Engine.assigned (i : EntryIndex) (m : Measurement) (expiry : Nat) : Engine where
  state := if m.kind = .edgeCount then .gating else .awaitStart
  holder := some i
  measurement := some m
  expiry := expiry
  age := 0
  elapsed := 0
  count := 0
  outcome := none

/-- Assigns engine `e` to watch `i`, whose activity becomes MEASURING (R123, R130). -/
def State.assignEngine (s : State) (e : EngineIndex) (i : EntryIndex) (m : Measurement) (expiry : Nat) : State :=
  (s.setEngine e (Engine.assigned i m expiry)).setActivity i .measuring

/-- The lowest-numbered FREE engine (R123). -/
def State.freeEngine (s : State) : Option EngineIndex :=
  allEngines.find? fun e => decide ((s.engine e).state = .free)

/-- An engine request for the timing watch `i`: the lowest-numbered FREE engine, or the back of the wait list (R123). -/
def State.requestEngine (s : State) (i : EntryIndex) (m : Measurement) (expiry : Nat) : State :=
  match s.freeEngine with
  | some e => s.assignEngine e i m expiry
  | none => { s with waitList := s.waitList ++ [i] }.setActivity i .awaitingEngine

/-- Hands engine `e` to the first watch of the list, or makes it FREE when the list is empty (R130). A member that is no
timing watch, which no run of the part holds, is passed over (log 23). -/
def handOver (s : State) (e : EngineIndex) : List EntryIndex → State
  | [] => { s with waitList := [] }.setEngine e Engine.freed
  | i :: rest =>
    match (s.entry i).watch.bind Watch.measurement with
    | none => handOver s e rest
    | some (m, expiry) => { s with waitList := rest }.assignEngine e i m expiry

/-- Releases engine `e`: to the head of the wait list, or FREE (R130, R131). -/
def State.releaseEngine (s : State) (e : EngineIndex) : State := handOver s e s.waitList

/-- The engine that measures for watch `i` (R11), one that is not RESERVED where there are two (R129). -/
def State.engineOf (s : State) (i : EntryIndex) : Option EngineIndex :=
  allEngines.find? fun e =>
    decide ((s.engine e).holder = some i) && decide ((s.engine e).state ≠ .free) &&
      decide ((s.engine e).state ≠ .reserved)

/-- The engine RESERVED for a delivery to watch `i` (R129). -/
def State.reservedFor (s : State) (i : EntryIndex) : Option EngineIndex :=
  allEngines.find? fun e =>
    decide ((s.engine e).holder = some i) && decide ((s.engine e).state = .reserved)

/-- The engine holding watch `i` abandons its measurement and is released (R131). -/
def State.abandon (s : State) (i : EntryIndex) : State :=
  match s.engineOf i with
  | none => s
  | some e => s.releaseEngine e

/-- Watch `i` is removed from the engine wait list (R131). -/
def State.leaveWaitList (s : State) (i : EntryIndex) : State :=
  { s with waitList := s.waitList.filter fun j => decide (j ≠ i) }

/-- An engine ends its measurement and is RESERVED for the delivery of the outcome (R129). -/
def Engine.completed (v : Engine) (status : OutcomeStatus) (value : Nat) : Engine :=
  { v with state := .reserved, outcome := some ⟨status, some (value : Int)⟩ }

/-- The level an input takes after a measurement's active edge (R116). -/
def Polarity.activeLevel : Polarity → Level
  | .rising => .high
  | .falling => .low

/-- The microseconds from the starting edge, which came after the assignment, to the completing edge, which comes no later
than the limit: fewer than the limit (R125; log 2). -/
def Engine.timed (v : Engine) : Nat := min v.elapsed (v.expiry - 1)

/-- What a transition of the measured input to `level` does at an engine (R125, R126, R127). -/
def Engine.onTransition (v : Engine) (m : Measurement) (level : Level) : Engine :=
  let active := decide (level = m.polarity.activeLevel)
  match v.state with
  | .awaitStart => if active then { v with state := .timing, elapsed := 0 } else v
  | .timing =>
    match m.kind with
    | .period => if active then v.completed .normal v.timed else v
    | .highTime => if active then v else v.completed .normal v.timed
    | .edgeCount => v
  | .gating => if active then { v with count := min Config.countCeiling (v.count + 1) } else v
  | _ => v

/-- A transition of DIN input `n` to `level` at one engine: it is taken where the engine's measurement names the input
(R116). -/
def Engine.see (n : TimingInput) (level : Level) (v : Engine) : Engine :=
  match v.measurement with
  | none => v
  | some m => if m.input = n then v.onTransition m level else v

/-- The filtered level of DIN input `n` becomes `level`: one transition, which reaches every engine (R115, R116).
DESIGN CHOICE (log 32): all engines that measure the input take it in this one step, where R116 has each take it on its own, with
no order between them. -/
def State.dinEdge (s : State) (n : TimingInput) (level : Level) : State :=
  let s' := s.setDin n { s.din n with level := level }
  { s' with engines := mapEngines (Engine.see n level) s.engines }

/-- Whether an assigned engine's measurement names input `n` (R117). -/
def State.inputBusy (s : State) (n : TimingInput) : Bool :=
  allEngines.any fun e =>
    decide ((s.engine e).state ≠ .free) && decide ((s.engine e).measurement.map (·.input) = some n)

end Sys2Proof.Machine
end

