-- ==== Sys2Proof/Machine/Conversion.lean ====
section
/-! DEFINITION. The conversion path: raw codes and correction, the waiting queues, the start and end of a request
(spec/05, spec/06). -/

namespace Sys2Proof.Machine

/-! ### Codes and correction -/

/-- Holds a value within limits. -/
def clampInt (lo hi x : Int) : Int := max lo (min hi x)

/-- A bipolar range, measured about the internal mid-scale point (R85, R106). -/
def bipolar (range : Fin 4) : Bool := decide (2 ≤ range.val)

/-- One code step of a range in µV (R85). -/
def codeStep (range : Fin 4) : Int :=
  match range with
  | 0 => 500
  | 1 => 1000
  | 2 => 1000
  | 3 => 2000

/-- The raw code of a level in µV, above ground on a unipolar range and above mid-scale on a bipolar one: the steps rounded
down, and a clamp code beyond the span (R85). -/
def rawCode (range : Fin 4) (level : Int) : Nat :=
  (clampInt 0 4095 ((if bipolar range then 2048 else 0) + level / codeStep range)).toNat

/-- The signed code of a raw code (R106). -/
def signedCode (range : Fin 4) (raw : Nat) : Int := if bipolar range then (raw : Int) - 2048 else raw

/-- The corrected value limits of a range (R106). -/
def correctedLimits (range : Fin 4) : Int × Int := if bipolar range then (-2048, 2047) else (0, 4095)

/-- The quotient of the correction arithmetic: exact, the fraction discarded toward zero (R107). -/
def correctionQuotient (k : Correction) (range : Fin 4) (raw : Nat) : Int :=
  ((signedCode range raw + k.offset) * (k.gain : Int)).tdiv 32768

/-- The corrected value: the quotient held within the limits of the range (R108). -/
def correctedValue (k : Correction) (range : Fin 4) (raw : Nat) : Int :=
  clampInt (correctedLimits range).1 (correctedLimits range).2 (correctionQuotient k range raw)

/-- Whether the quotient had to be held (R108). -/
def saturated (k : Correction) (range : Fin 4) (raw : Nat) : Bool :=
  decide (correctedValue k range raw ≠ correctionQuotient k range raw)

/-- The two clamp codes (R85, R94). -/
def clampCode (raw : Nat) : Bool := decide (raw = 0) || decide (raw = 4095)

/-- The one outcome of a NORMAL completion (R93, R94). -/
def conversionOutcome (fault : Bool) (k : Correction) (range : Fin 4) (raw : Nat) : Delivered :=
  if fault then ⟨.fault, none⟩
  else ⟨if clampCode raw || saturated k range raw then .clipped else .normal, some (correctedValue k range raw)⟩

/-- PASS where the raw code lies within 2988 to 3012 (R99). -/
def checkPasses (raw : Nat) : Bool := decide (2988 ≤ raw) && decide (raw ≤ 3012)

/-! ### The waiting queue -/

/-- A CHECK request (R82). -/
def Request.check : Request := ⟨.checkSource, 1, Config.checkSettle, []⟩

/-- Whether a request is a CHECK request (R82). -/
def Request.isCheck (r : Request) : Bool := decide (r.source = .checkSource)

/-- Whether a submission can join a waiting request: NORMAL, with the same input, range and settle (R87). -/
def Request.joinable (r : Request) (input : AnalogInput) (range : Fin 4) (settle : Nat) : Bool :=
  decide (r.source = .ain input) && decide (r.range = range) && decide (r.settle = settle)

/-- Watch `i` joins the first waiting request it can (R87 step 1). -/
def joinQueue (i : EntryIndex) (input : AnalogInput) (range : Fin 4) (settle : Nat) :
    List Request → Option (List Request)
  | [] => none
  | r :: rs =>
    if r.joinable input range settle then some ({ r with subscribers := insertIndex i r.subscribers } :: rs)
    else (joinQueue i input range settle rs).map (r :: ·)

/-- The submission of LEVEL watch `i`: it joins, it appends, or it is refused, which the disposition OVERRUN says and the
scheduler counts (R87). -/
def State.submit (s : State) (i : EntryIndex) (input : AnalogInput) (range : Fin 4) (settle : Nat) :
    State × Disposition :=
  let c := servingConverter input
  let v := s.converter c
  match joinQueue i input range settle v.queue with
  | some q => ((s.setConverter c { v with queue := q }).setActivity i .queued, .joined)
  | none =>
    if v.queue.length < Config.queueCapacity then
      ((s.setConverter c { v with queue := v.queue ++ [⟨.ain input, range, settle, [i]⟩] }).setActivity i .queued, .started)
    else (s, .overrun)

/-- A waiting request without watch `i`; none where no subscriber is left (R90). -/
def Request.without (i : EntryIndex) (r : Request) : Option Request :=
  if i ∈ r.subscribers then
    let rest := r.subscribers.filter fun j => decide (j ≠ i)
    if rest = [] then none else some { r with subscribers := rest }
  else some r

/-- A QUEUED watch leaves the waiting request that holds it (R90). -/
def State.unsubscribe (s : State) (i : EntryIndex) : State :=
  { s with
    conv0 := { s.conv0 with queue := s.conv0.queue.filterMap (Request.without i) }
    conv1 := { s.conv1 with queue := s.conv1.queue.filterMap (Request.without i) } }

/-! ### The start and the end of a request -/

/-- The activities of a request's subscribers become CONVERTING (R84). -/
def State.markConverting (s : State) (subscribers : List EntryIndex) : State :=
  subscribers.foldl (fun s i => s.setActivity i .converting) s

/-- A free converter takes its oldest waiting request, SETTLING or straight to CONVERTING for settle 0; with an empty queue it
is IDLE (R83, R84, R95). -/
def State.takeNext (s : State) (c : ConverterId) : State :=
  let v := s.converter c
  match v.queue with
  | [] => s.setConverter c { v with state := .idle, current := none, timer := 0, delivering := none }
  | r :: rest =>
    let v' : Converter :=
      { v with
        state := if r.settle = 0 then .converting else .settling
        queue := rest
        current := some r
        timer := if r.settle = 0 then Config.conversionMicros else r.settle * Config.unitMicros
        delivering := none }
    (s.setConverter c v').markConverting r.subscribers

/-- An IDLE converter takes its oldest waiting request (R84). -/
def State.startIdle (s : State) (c : ConverterId) : State :=
  if (s.converter c).state = .idle then s.takeNext c else s

end Sys2Proof.Machine
end

