-- ==== Sys2Proof/Machine/Scheduler.lean ====
section
/-! DEFINITION. Start requests and their dispositions, interval expiries, and fan-out
(spec/03, spec/04). -/

namespace Sys2Proof.Machine

/-- An overrun, as the disposition of a start (R57). -/
def State.overrunStart (s : State) (i : EntryIndex) : State × Disposition := (s.countOverrun i, .overrun)

/-- A start taken by the watch's overrun policy (R54, R63). -/
def State.startByPolicy (s : State) (i : EntryIndex) (w : Watch) : State × Disposition :=
  if w.defn.contract.policy = .hold ∧ w.dyn.heldTrigger = false then
    (s.updateWatch i fun w => { w with dyn := { w.dyn with heldTrigger := true } }, .heldTrigger)
  else s.overrunStart i

/-- A start of a watch that is not in flight: its submission or its engine request (R55, R56). -/
def State.startWork (s : State) (i : EntryIndex) (w : Watch) : State × Disposition :=
  match w.defn.contract.measure with
  | .level input range settle =>
    match s.submit i input range settle with
    | (_, .overrun) => s.overrunStart i
    | r => r
  | .timing k n pol span => (s.requestEngine i ⟨k, n, pol⟩ (span * 1000), .started)

/-- A start request for watch `w` of entry `i` while the scheduler is not held (R54 to R56). -/
def State.startRequest (s : State) (i : EntryIndex) (w : Watch) : State × Disposition :=
  if (s.entry i).activity = .none then s.startWork i w else s.startByPolicy i w

/-- A start request from a source that reaches the entry whether or not the scheduler is held: fan-out (R53, R63, R74). -/
def State.startAny (s : State) (i : EntryIndex) (w : Watch) : State × Disposition :=
  if s.isHeld then s.startByPolicy i w else s.startRequest i w

/-- Clears the held trigger of watch `i`. -/
def State.clearHeld (s : State) (i : EntryIndex) : State :=
  s.updateWatch i fun w => { w with dyn := { w.dyn with heldTrigger := false } }

/-- Services a set held trigger of an ARMED watch with activity NONE: the flag is cleared and a start is issued (R59, R64). -/
def State.serviceHeld (s : State) (i : EntryIndex) : State :=
  match (s.entry i).watch with
  | none => s
  | some w =>
    if (s.entry i).state = .armed ∧ w.dyn.heldTrigger = true ∧ (s.entry i).activity = .none then
      ((s.clearHeld i).startRequest i { w with dyn := { w.dyn with heldTrigger := false } }).1
    else s

/-- The expiry of watch `i`, with the lateness status it had: reschedule, the late overrun, and the start (R50, R51). -/
def State.expire (s : State) (i : EntryIndex) (l : Lateness) : State :=
  match (s.entry i).state, (s.entry i).watch with
  | .armed, some w =>
    match w.defn.contract.start, w.dyn.due with
    | .interval n, some due =>
      let next := if l = .late then s.now + intervalUnits n else due + intervalUnits n
      let s1 := (s.leaveDueList i).joinDueList i next
      let s2 := if l = .late then s1.countOverrun i else s1
      match (s2.entry i).watch with
      | none => s2
      | some w' => (s2.startRequest i w').1
    | _, _ => s.leaveDueList i
  | _, _ => s.leaveDueList i

/-! ### Fan-out -/

/-- A fan-out examines one entry: an ARMED watch bound to the line is started (R72). -/
def State.fanOutTo (l : TrgLine) (s : State) (i : EntryIndex) : State :=
  match (s.entry i).state, (s.entry i).watch with
  | .armed, some w => if w.defn.contract.start = .trg l then (s.startAny i w).1 else s
  | _, _ => s

/-- The fan-out of a line goes on from entry `k` for `n` entries; it ends when it has examined entry 63 (R72, R73). -/
def State.fanOut (s : State) (l : TrgLine) (k n : Nat) : State :=
  let s1 := ((allEntries.drop k).take n).foldl (State.fanOutTo l) s
  s1.setLine l { s1.line l with fanOut := if k + n < 64 then some (k + n) else none }

/-- An accepted edge is taken by the line's mode and sub-state; a fan-out that follows examines `n` entries at once (R71). -/
def State.takeEdge (s : State) (l : TrgLine) (n : Nat) : State :=
  let t := s.line l
  match t.mode, t.sub with
  | .every, _ => s.fanOut l 0 n
  | .once, some .ready => (s.setLine l { t with sub := some .spent }).fanOut l 0 n
  | _, _ => s

/-- Whether a transition to `level` matches an edge setting (R70). -/
def TrgEdge.accepts : TrgEdge → Level → Bool
  | .rising, .high => true
  | .falling, .low => true
  | .both, _ => true
  | _, _ => false

/-- The filtered level of a line becomes its raw level: one transition. An accepted edge is counted, and is taken at once or,
while a fan-out of the line is in progress, becomes its waiting edge (R69, R70, R73). -/
def State.trgEdge (s : State) (l : TrgLine) (n : Nat) : State :=
  let t := { s.line l with level := (s.line l).raw }
  if t.edge.accepts t.level then
    let t' := { t with count := t.count + 1 }
    if t.fanOut.isSome then s.setLine l { t' with waiting := true }
    else (s.setLine l t').takeEdge l n
  else s.setLine l t

end Sys2Proof.Machine
end

