-- ==== Sys2Proof/Machine/Deliveries.lean ====
section
/-! DEFINITION. Deliveries at an entry and at their source, and how DISARM and RETIRE settle a watch's work
(spec/02, spec/05 R95, spec/07 R129 to R132, spec/08). -/

namespace Sys2Proof.Machine

/-- A ONCE watch returns to DEFINED, leaves the due list and loses its held trigger (R150). -/
def State.endOnce (s : State) (i : EntryIndex) : State :=
  let s1 := (s.leaveDueList i).clearHeld i
  s1.setEntry i { s1.entry i with state := .defined }

/-- The held-trigger step of a delivery: the rule of completion with a held trigger (R59, R151). -/
def State.completeHeld (s : State) (i : EntryIndex) : State :=
  if s.isHeld then s else s.serviceHeld i

/-- A delivery to an ARMED watch, in the order of R140. -/
def State.deliverArmed (s : State) (i : EntryIndex) (w : Watch) (o : Delivered) : State :=
  let d := w.deliver o s.now
  let s1 := (s.setEntry i { s.entry i with activity := .none, watch := some d.1 }).raise i d.2
  let s2 := if w.defn.contract.lifetime = .once then s1.endOnce i else s1
  s2.completeHeld i

/-- A delivery to an entry, according to its state (R95, R137): RETIRING discards the outcome and frees the entry (R138),
DEFINED stores a late outcome (R139), ARMED takes the six steps (R140). -/
def State.deliver (s : State) (i : EntryIndex) (o : Delivered) : State :=
  let e := s.entry i
  match e.state, e.watch with
  | .retiring, _ => s.setEntry i { e with state := .free, activity := .none, watch := none }
  | .defined, some w => s.setEntry i { e with activity := .none, watch := some (w.record o s.now) }
  | .armed, some w => s.deliverArmed i w o
  | _, _ => s

/-- One delivery of a converter's completion: the subscriber leaves the set within its claim, and after the last one the
converter becomes IDLE or takes its next request at once (R95; log 11). -/
def State.deliverFromConverter (s : State) (c : ConverterId) (i : EntryIndex) : State :=
  let v := s.converter c
  match v.current, v.delivering with
  | some r, some o =>
    if i ∈ r.subscribers then
      let rest := r.subscribers.filter fun j => decide (j ≠ i)
      let s1 := (s.setConverter c { v with current := some { r with subscribers := rest } }).deliver i o
      if rest = [] then s1.takeNext c else s1
    else s
  | _, _ => s

/-- The delivery of a RESERVED engine's outcome to its holder, and the engine's release (R129, R130). -/
def State.deliverFromEngine (s : State) (e : EngineIndex) : State :=
  let v := s.engine e
  match v.state, v.holder, v.outcome with
  | .reserved, some i, some o => (s.deliver i o).releaseEngine e
  | _, _, _ => s

/-- A delivery by its source (R137). -/
def State.takeDelivery (s : State) (source : DeliverySource) : State :=
  match source with
  | .converter c i => s.deliverFromConverter c i
  | .engine e => s.deliverFromEngine e

/-- DEDUCED (log 12). A command that would let go of watch `i` finds the delivery of a completion already taken at its engine
done first, as the order "completion first" of R132 has it. -/
def State.settleCompletion (s : State) (i : EntryIndex) : State :=
  match s.reservedFor i with
  | none => s
  | some e => s.deliverFromEngine e

/-- The holder of a watch's work lets it go: QUEUED, AWAITING_ENGINE and MEASURING become NONE (R34, R90, R131). -/
def State.letGo (s : State) (i : EntryIndex) : State :=
  match (s.entry i).activity with
  | .none => s
  | .converting => s
  | .queued => (s.unsubscribe i).setActivity i .none
  | .awaitingEngine => (s.leaveWaitList i).setActivity i .none
  | .measuring => (s.abandon i).setActivity i .none

/-- The effect of an accepted DISARM (R33 to R35). -/
def State.disarmWatch (s : State) (i : EntryIndex) : State :=
  let s1 := ((s.leaveDueList i).clearHeld i).updateWatch i fun w => if w.dyn.swapPending then w.toggleBanks else w
  let s2 := s1.letGo i
  s2.setEntry i { s2.entry i with state := .defined }

/-- The effect of an accepted RETIRE of the watch of entry `i` owned by `p` (R37 to R39). -/
def State.retireWatch (s : State) (p : Port) (i : EntryIndex) : State :=
  let s1 := (((s.leaveDueList i).removeMember p i).clearHeld i).updateWatch i
    fun w => { w with dyn := { w.dyn with swapPending := false } }
  let e := s1.entry i
  if e.activity = .converting then s1.setEntry i { e with state := .retiring, generation := e.generation + 1 }
  else (s1.letGo i).setEntry i ⟨.free, e.generation + 1, .none, none⟩

/-- PORT RESET retires one watch, if `p` owns it and its entry is DEFINED or ARMED (R41). -/
def State.retireOwned (p : Port) (s : State) (i : EntryIndex) : State :=
  if s.owns p i then (s.settleCompletion i).retireWatch p i else s

end Sys2Proof.Machine
end

