-- ==== Sys2Proof/Machine/DeliveryEvents.lean ====
section
/-! DEFINITION. DELIVERY (spec/08 R137 to R151). -/

namespace Sys2Proof.Machine

/-- DELIVERY: an outcome arrives at a watch entry from a converter or an engine (R137, R140). -/
def execDelivery (source : DeliverySource) (s : State) : Host.Outcome State Fault Refusal :=
  .next (if s.resetAsserted then s else s.takeDelivery source)

end Sys2Proof.Machine
end

