-- ==== Sys2Proof/Machine/Operands.lean ====
section
/-! DEFINITION. Operand forms: how the parameters of a frame are read and tested, and how response data is laid out
(spec/10 R168, R178 to R181; the definition test of spec/01 R4; the bank test of spec/01 R3). -/

namespace Sys2Proof.Machine

/-! ### Numbers in frames: most significant byte first (R178) -/

def byteOf (n : Nat) : Byte := BitVec.ofNat 8 n

def halfBytes (v : Half) : List Byte := [v.extractLsb' 8 8, v.extractLsb' 0 8]

def wordBytes (v : Word) : List Byte :=
  [v.extractLsb' 24 8, v.extractLsb' 16 8, v.extractLsb' 8 8, v.extractLsb' 0 8]

/-- A signed value as a two's complement word. -/
def intBytes (x : Int) : List Byte := wordBytes (BitVec.ofInt 32 x)

def flagByte (b : Bool) : Byte := if b then 1 else 0

/-! ### Enumerated fields (R178) -/

def decodePolarity : Byte → Option Polarity
  | 0x00 => some .rising
  | 0x01 => some .falling
  | _ => none

def decodeLifetime : Byte → Option Lifetime
  | 0x00 => some .standing
  | 0x01 => some .once
  | _ => none

def decodePolicy : Byte → Option Policy
  | 0x00 => some .hold
  | 0x01 => some .drop
  | _ => none

def decodeShare : Byte → Option Share
  | 0x00 => some .closed
  | 0x01 => some .shared
  | _ => none

def decodeTrgLine : Byte → Option TrgLine
  | 0x00 => some .trg0
  | 0x01 => some .trg1
  | _ => none

def decodeTrgMode : Byte → Option TrgMode
  | 0x00 => some .off
  | 0x01 => some .every
  | 0x02 => some .once
  | _ => none

def decodeTrgEdge : Byte → Option TrgEdge
  | 0x00 => some .rising
  | 0x01 => some .falling
  | 0x02 => some .both
  | _ => none

def decodeFilter : Byte → Option FilterSetting
  | 0x00 => some .off
  | 0x01 => some .us2
  | 0x02 => some .us50
  | 0x03 => some .ms1
  | _ => none

def decodeSwitch : Byte → Option Bool
  | 0x00 => some false
  | 0x01 => some true
  | _ => none

def decodeAnalogInput (b : Byte) : Option AnalogInput :=
  if h : b.toNat < 16 then some ⟨b.toNat, h⟩ else none

def decodeTimingInput (b : Byte) : Option TimingInput :=
  if h : b.toNat < 8 then some ⟨b.toNat, h⟩ else none

def decodeRange (b : Byte) : Option (Fin 4) :=
  if h : b.toNat < 4 then some ⟨b.toNat, h⟩ else none

/-- The correction entry that an input and range name (R110, R111). -/
def decodeCorrectionKey (input range : Byte) : Option (AnalogInput × Fin 4) :=
  match decodeAnalogInput input, decodeRange range with
  | some i, some r => some (i, r)
  | _, _ => none

/-- A correction offset: two's complement, within -2048 to 2047 (R110). -/
def decodeOffset (h : Half) : Option Int :=
  if -2048 ≤ h.toInt ∧ h.toInt ≤ 2047 then some h.toInt else none

/-! ### Windows and definitions (R3, R4) -/

/-- low less than high, hysteresis from 0 to high minus low (R3). -/
def Threshold.ordered (t : Threshold) : Bool :=
  decide (t.low < t.high) && decide (0 ≤ t.hysteresis) && decide (t.hysteresis ≤ t.high - t.low)

/-- All three values within limits (R3). -/
def Threshold.within (t : Threshold) (limits : Int × Int) : Bool :=
  decide (limits.1 ≤ t.low) && decide (t.low ≤ limits.2) && decide (limits.1 ≤ t.high) && decide (t.high ≤ limits.2) &&
    decide (limits.1 ≤ t.hysteresis) && decide (t.hysteresis ≤ limits.2)

/-- A bank within limits: absent, or a window within them (R5). -/
def bankWithin (k : Option Threshold) (limits : Int × Int) : Bool :=
  match k with
  | none => true
  | some t => t.within limits

def bankThreshold (b : BankBlock) : Threshold := ⟨b.low.toInt, b.high.toInt, b.hysteresis.toInt⟩

/-- Bank contents as sent, tested against limits: absent (the rest ignored), or a window satisfying R3 (R27, R179). -/
def decodeBank (b : BankBlock) (limits : Int × Int) : Option (Option Threshold) :=
  match b.present with
  | 0x00 => some none
  | 0x01 => if (bankThreshold b).ordered && (bankThreshold b).within limits then some (some (bankThreshold b)) else none
  | _ => none

/-- The limits that WRITE BANK tests at the port, before the watch's kind is known (R27). -/
def portLimits : Int × Int := (-2048, 2147483647)

/-- The fields of a PERIOD or HIGH_TIME block, with a limit of 1 to 60000 ms (R2). -/
def limitedMeasure (b : DefBlock) (k : TimingKind) : Option Measure :=
  match decodeTimingInput b.input, decodePolarity b.rangeOrPolarity with
  | some n, some pol =>
    if 1 ≤ b.gateOrLimit.toNat ∧ b.gateOrLimit.toNat ≤ 60000 then some (.timing k n pol b.gateOrLimit.toNat) else none
  | _, _ => none

/-- The kind of a definition block with the fields of that kind, those of other kinds ignored (R2, R4). -/
def blockMeasure (b : DefBlock) : Option Measure :=
  match b.kind with
  | 0x00 =>
    match decodeAnalogInput b.input, decodeRange b.rangeOrPolarity with
    | some i, some r => some (.level i r b.settle.toNat)
    | _, _ => none
  | 0x01 => limitedMeasure b .period
  | 0x02 => limitedMeasure b .highTime
  | 0x03 =>
    match decodeTimingInput b.input, decodePolarity b.rangeOrPolarity with
    | some n, some pol => if 1 ≤ b.gateOrLimit.toNat then some (.timing .edgeCount n pol b.gateOrLimit.toNat) else none
    | _, _ => none
  | _ => none

/-- The start of a definition block, with an interval of 1 to 65535 for INTERVAL (R2). -/
def blockStart (b : DefBlock) : Option Start :=
  match b.start with
  | 0x00 => if 1 ≤ b.interval.toNat then some (.interval b.interval.toNat) else none
  | 0x01 => some (.trg .trg0)
  | 0x02 => some (.trg .trg1)
  | 0x03 => some .command
  | _ => none

/-- The definition test of R4 but for the bank: the contract that a block carries. -/
def blockContract (b : DefBlock) : Option Contract :=
  match blockMeasure b, blockStart b, decodeLifetime b.lifetime, decodePolicy b.policy, decodeShare b.share with
  | some m, some st, some life, some pol, some sh =>
    if 1 ≤ b.qualify.toNat ∧ b.qualify.toNat ≤ 16 ∧ b.notify.toNat < 32 ∧ b.reserved = 0 then
      some ⟨m, st, life, pol, b.qualify.toNat, b.notify.setWidth 5, sh⟩
    else none
  | _, _, _, _, _ => none

/-- The definition test of CREATE WATCH: the contract, and bank A against the kind the block names (R4). -/
def blockCreation (b : DefBlock) : Option (Contract × Option Threshold) :=
  match blockContract b with
  | none => none
  | some c => (decodeBank b.bankA c.measure.kind.limits).map fun k => (c, k)

/-- A handle within its range (R13 step 1). -/
def handleInRange (h : Handle) : Bool := decide (h.index.toNat < 64) && decide (h.generation.toNat < 16)

/-- The entry that a handle within its range names. -/
def handleEntry (h : Handle) : EntryIndex := Fin.ofNat 64 h.index.toNat

/-! ### Response data (R178 to R181) -/

def portByte : Port → Byte
  | .a => 0
  | .b => 1

def BankId.byte : BankId → Byte
  | .a => 0
  | .b => 1

def levelByte : Level → Byte
  | .low => 0
  | .high => 1

def Kind.byte : Kind → Byte
  | .level => 0
  | .period => 1
  | .highTime => 2
  | .edgeCount => 3

def Polarity.byte : Polarity → Byte
  | .rising => 0
  | .falling => 1

def Start.byte : Start → Byte
  | .interval _ => 0
  | .trg .trg0 => 1
  | .trg .trg1 => 2
  | .command => 3

def Lifetime.byte : Lifetime → Byte
  | .standing => 0
  | .once => 1

def Policy.byte : Policy → Byte
  | .hold => 0
  | .drop => 1

def Share.byte : Share → Byte
  | .closed => 0
  | .shared => 1

def EntryState.byte : EntryState → Byte
  | .defined => 1
  | .armed => 2
  | _ => 0

def Activity.byte : Activity → Byte
  | .none => 0
  | .queued => 1
  | .converting => 2
  | .awaitingEngine => 3
  | .measuring => 4

def Condition.byte : Condition → Byte
  | .unknown => 0
  | .below => 1
  | .inside => 2
  | .above => 3

def SignalClass.byte : SignalClass → Byte
  | .below => 1
  | .inside => 2
  | .above => 3

def OutcomeStatus.byte : OutcomeStatus → Byte
  | .normal => 0
  | .clipped => 1
  | .stalled => 2
  | .fault => 3

def Disposition.byte : Disposition → Byte
  | .started => 0
  | .joined => 1
  | .heldTrigger => 2
  | .overrun => 3

def TrgMode.byte : TrgMode → Byte
  | .off => 0
  | .every => 1
  | .once => 2

def TrgEdge.byte : TrgEdge → Byte
  | .rising => 0
  | .falling => 1
  | .both => 2

/-- A line in OFF or EVERY has no sub-state and reports READY (R78). -/
def subStateByte : Option SubState → Byte
  | some .spent => 1
  | _ => 0

def FilterSetting.byte : FilterSetting → Byte
  | .off => 0
  | .us2 => 1
  | .us50 => 2
  | .ms1 => 3

def ConverterState.byte : ConverterState → Byte
  | .warmup => 0
  | .idle => 1
  | .settling => 2
  | .converting => 3

/-- The status values of R176. -/
def Status.byte : Status → Byte
  | .ok => 0x00
  | .frameError => 0x10
  | .unknownCommand => 0x11
  | .badLength => 0x12
  | .badParameter => 0x13
  | .badHandle => 0x20
  | .staleHandle => 0x21
  | .notOwner => 0x22
  | .badState => 0x23
  | .tableFull => 0x24
  | .held => 0x25
  | .queueFull => 0x26
  | .inputBusy => 0x27
  | .checkBusy => 0x28
  | .empty => 0x29

/-- Bank contents in response data: an absent bank is 13 bytes of 00h (R179). -/
def bankBytes : Option Threshold → List Byte
  | none => List.replicate 13 0
  | some t => 1 :: intBytes t.low ++ intBytes t.high ++ intBytes t.hysteresis

/-- Input and range or polarity of a measure (R179 offsets 1 and 2). -/
def Measure.inputBytes : Measure → List Byte
  | .level i r _ => [byteOf i.val, byteOf r.val]
  | .timing _ n pol _ => [byteOf n.val, pol.byte]

/-- The settle time, 0 where it is not present (R179 offset 7). -/
def Measure.settleByte : Measure → Byte
  | .level _ _ settle => byteOf settle
  | .timing .. => 0

/-- The gate or limit, 0 where neither is present (R179 offsets 10 and 11). -/
def Measure.spanHalf : Measure → Half
  | .level .. => 0
  | .timing _ _ _ span => BitVec.ofNat 16 span

/-- The interval, 0 where it is not present (R179 offsets 8 and 9). -/
def Start.intervalHalf : Start → Half
  | .interval n => BitVec.ofNat 16 n
  | _ => 0

/-- The definition block of a watch in response data, 28 bytes (R179). -/
def Definition.bytes (d : Definition) : List Byte :=
  let c := d.contract
  [c.measure.kind.byte] ++ c.measure.inputBytes ++
    [c.start.byte, c.lifetime.byte, c.policy.byte, c.share.byte, c.measure.settleByte] ++
    halfBytes c.start.intervalHalf ++ halfBytes c.measure.spanHalf ++
    [byteOf c.qualify, c.notify.setWidth 8] ++ bankBytes d.bankA ++ [0]

/-- READ WATCH data, 46 bytes (R180). -/
def readWatchData (e : Entry) (w : Watch) : List Byte :=
  w.defn.bytes ++
    [portByte w.defn.owner, e.state.byte, e.activity.byte, w.defn.active.byte, flagByte w.dyn.swapPending] ++
    bankBytes w.defn.bankB

def outcomeBytes : Option Outcome → List Byte
  | none => List.replicate 10 0
  | some o => [1, o.status.byte] ++ intBytes o.value ++ wordBytes o.timestamp

def candidateBytes : Option Candidate → List Byte
  | none => [0, 0]
  | some c => [c.proposed.byte, byteOf c.count]

def dueBytes : Option DeviceTime → List Byte
  | none => List.replicate 5 0
  | some t => 1 :: wordBytes t

/-- READ VALUE data, 28 bytes (R180). -/
def readValueData (e : Entry) (w : Watch) (now : DeviceTime) : List Byte :=
  outcomeBytes w.dyn.outcome ++ halfBytes w.dyn.sequence ++ [w.dyn.condition.byte] ++ candidateBytes w.dyn.candidate ++
    [flagByte w.dyn.swapPending, flagByte w.dyn.heldTrigger, byteOf w.dyn.overruns] ++ dueBytes w.dyn.due ++
    [e.activity.byte] ++ wordBytes now

/-- Eight flags as one byte, the first one bit 0. -/
def packByte : List Bool → Byte
  | [] => 0
  | b :: bs => (packByte bs <<< 1) ||| flagByte b

/-- A LIST WATCHES set: 8 bytes, entry i at bit (i mod 8) of byte (i div 8) (R180). -/
def setBytes (member : EntryIndex → Bool) : List Byte :=
  (List.range 8).map fun k => packByte ((List.range 8).map fun j => member (Fin.ofNat 64 (8 * k + j)))

/-- A correction entry in response data, 6 bytes (R181). -/
def correctionData (input : AnalogInput) (range : Fin 4) (k : Correction) : List Byte :=
  [byteOf input.val, byteOf range.val] ++ halfBytes (BitVec.ofNat 16 k.gain) ++ halfBytes (BitVec.ofInt 16 k.offset)

/-- A trigger line's report, 6 bytes (R181). -/
def lineBytes (t : TrgContext) : List Byte :=
  [t.mode.byte, t.edge.byte, subStateByte t.sub, levelByte t.level] ++ halfBytes t.count

/-- READ INPUTS data, 21 bytes (R78, R119, R181). DESIGN CHOICE (log 30): all ten reports come from the same moment, where R78 and
R119 let an event fall between two of them. -/
def readInputsData (s : State) : List Byte :=
  packByte (s.dins.toList.map fun d => decide (d.level = .high)) :: s.dins.toList.map (·.setting.byte) ++
    lineBytes s.trg0 ++ lineBytes s.trg1

def requestKindByte : Option Request → Byte
  | none => 0
  | some r => if r.source = .checkSource then 2 else 1

def requestInputByte : Option Request → Byte
  | none => 0
  | some r =>
    match r.source with
    | .ain i => byteOf i.val
    | .checkSource => 0x10

/-- Whether a converter holds a CHECK request, waiting or current (R102). -/
def Converter.checkPending (v : Converter) : Bool :=
  (v.current.toList ++ v.queue).any fun r => decide (r.source = .checkSource)

/-- A converter's report, 6 bytes (R181). -/
def converterBytes (v : Converter) : List Byte :=
  [v.state.byte, byteOf v.queue.length, requestKindByte v.current, requestInputByte v.current, flagByte v.fault,
    flagByte v.checkPending]

/-- READ CONVERTERS data, 13 bytes (R102, R181). DESIGN CHOICE (log 30): both reports come from the same moment, where R102 lets
an event at one converter fall between the two. -/
def readConvertersData (s : State) : List Byte :=
  converterBytes s.conv0 ++ converterBytes s.conv1 ++ [flagByte s.check.issuer.isSome]

/-- One converter's result in the REFERENCE CHECK response (R100, R181). -/
def checkResultBytes : Option CheckResult → List Byte
  | none => [0, 0, 0]
  | some r => halfBytes (BitVec.ofNat 16 r.code) ++ [flagByte (!r.pass)]

/-- IDENTIFY data, 10 bytes: part code 0CC0h, revision 01h, the capacities (R181). -/
def identifyData : List Byte := [0x0C, 0xC0, 0x01, 64, 2, 8, 4, 16, 8, 2]

/-- The two hold claims, port A's first (R61, R181). -/
def holdData (s : State) : List Byte := [flagByte s.holdA, flagByte s.holdB]

/-! ### Frames (R167, R169) -/

/-- The check byte that makes the sum of all bytes 0 modulo 256. -/
def checkByte (bs : List Byte) : Byte := -(bs.foldl (· + ·) 0)

/-- The status byte of a response, 80h added for the collision marker (R170, R176). -/
def Response.statusByte (r : Response) : Byte := r.status.byte + (if r.marker then 0x80 else 0)

/-- A response frame: status, tag, data length, data, check byte (R169). -/
def Response.frame (r : Response) : List Byte :=
  let body := [r.statusByte, r.tag, byteOf r.data.length] ++ r.data
  body ++ [checkByte body]

end Sys2Proof.Machine
end

