-- ==== Sys2Proof/Decode.lean ====
section
/-! DEFINITION. The words of the table and the frames of the ports: what a table word spells, how a request frame is judged and
read, and the frame a command is sent in (spec/10 R167, R168, R177). -/

namespace Sys2Proof

/-- spec/opcode_table.json gives no row any bits, so no word spells a command (log 21). -/
def decodeTableWord (_nbits _w : Nat) : Option Instr := none

/-! ### Reading a frame -/

/-- The parameter length of each command code, none for an unlisted code (R177). -/
def commandLength : Byte → Option Nat
  | 0x01 => some 0
  | 0x10 => some 28
  | 0x11 => some 30
  | 0x12 => some 15
  | 0x13 => some 2
  | 0x14 => some 4
  | 0x15 => some 2
  | 0x16 => some 2
  | 0x17 => some 2
  | 0x20 => some 2
  | 0x21 => some 2
  | 0x22 => some 0
  | 0x30 => some 0
  | 0x31 => some 1
  | 0x40 => some 6
  | 0x41 => some 2
  | 0x48 => some 2
  | 0x49 => some 0
  | 0x50 => some 3
  | 0x51 => some 1
  | 0x58 => some 0
  | 0x59 => some 0
  | 0x60 => some 0
  | 0x61 => some 0
  | 0x7F => some 0
  | _ => none

def byteAt (bs : List Byte) (k : Nat) : Byte := bs.getD k 0

/-- Two bytes, the most significant first (R178). -/
def halfAt (bs : List Byte) (k : Nat) : Half := byteAt bs k ++ byteAt bs (k + 1)

/-- Four bytes, the most significant first (R178). -/
def wordAt (bs : List Byte) (k : Nat) : Word := halfAt bs k ++ halfAt bs (k + 2)

/-- Bank contents at an offset (R179). -/
def bankAt (bs : List Byte) (k : Nat) : BankBlock :=
  ⟨byteAt bs k, wordAt bs (k + 1), wordAt bs (k + 5), wordAt bs (k + 9)⟩

/-- A definition block at an offset (R179). -/
def blockAt (bs : List Byte) (k : Nat) : DefBlock where
  kind := byteAt bs k
  input := byteAt bs (k + 1)
  rangeOrPolarity := byteAt bs (k + 2)
  start := byteAt bs (k + 3)
  lifetime := byteAt bs (k + 4)
  policy := byteAt bs (k + 5)
  share := byteAt bs (k + 6)
  settle := byteAt bs (k + 7)
  interval := halfAt bs (k + 8)
  gateOrLimit := halfAt bs (k + 10)
  qualify := byteAt bs (k + 12)
  notify := byteAt bs (k + 13)
  bankA := bankAt bs (k + 14)
  reserved := byteAt bs (k + 27)

/-- A handle at parameter bytes 0 and 1 (R177). -/
def handleAt (ps : List Byte) : Handle := ⟨byteAt ps 0, byteAt ps 1⟩

/-- The command that a code and its parameters make (R177). -/
def decodeCommand (p : Port) (tag code : Byte) (ps : List Byte) : Option Instr :=
  match code with
  | 0x01 => some (.identify p tag)
  | 0x10 => some (.createWatch p tag (blockAt ps 0))
  | 0x11 => some (.modifyWatch p tag (handleAt ps) (blockAt ps 2))
  | 0x12 => some (.writeBank p tag (handleAt ps) (bankAt ps 2))
  | 0x13 => some (.swapBank p tag (handleAt ps))
  | 0x14 => some (.arm p tag (handleAt ps) (halfAt ps 2))
  | 0x15 => some (.disarm p tag (handleAt ps))
  | 0x16 => some (.retire p tag (handleAt ps))
  | 0x17 => some (.sample p tag (handleAt ps))
  | 0x20 => some (.readWatch p tag (handleAt ps))
  | 0x21 => some (.readValue p tag (handleAt ps))
  | 0x22 => some (.listWatches p tag)
  | 0x30 => some (.fetchAttention p tag)
  | 0x31 => some (.attentionEnable p tag (byteAt ps 0))
  | 0x40 => some (.setCorrection p tag (byteAt ps 0) (byteAt ps 1) (halfAt ps 2) (halfAt ps 4))
  | 0x41 => some (.readCorrection p tag (byteAt ps 0) (byteAt ps 1))
  | 0x48 => some (.setFilter p tag (byteAt ps 0) (byteAt ps 1))
  | 0x49 => some (.readInputs p tag)
  | 0x50 => some (.triggerConfig p tag (byteAt ps 0) (byteAt ps 1) (byteAt ps 2))
  | 0x51 => some (.triggerRearm p tag (byteAt ps 0))
  | 0x58 => some (.hold p tag)
  | 0x59 => some (.resume p ⟨tag, [], []⟩)
  | 0x60 => some (.referenceCheck p tag)
  | 0x61 => some (.readConverters p tag)
  | 0x7F => some (.portReset p ⟨tag, [], []⟩)
  | _ => none

/-- The length a frame is to have, once its length byte has come (R167). -/
def frameLength (bs : List Byte) : Option Nat := bs[2]?.map fun n => 4 + n.toNat

/-- The 8-bit sum of bytes (R167). -/
def byteSum (bs : List Byte) : Byte := bs.foldl (· + ·) 0

/-- What the port makes of a complete frame before any parameter is looked at (R167, R168). -/
inductive FrameJudgement where
  | frameError
  | unknownCommand
  | badLength
  | command (i : Instr)
deriving DecidableEq, Repr

/-- Judges a complete frame: the check byte and the length byte, the command code, the command's own length (R167, R168). -/
def decodeFrame (p : Port) (frame : List Byte) : FrameJudgement :=
  let n := (byteAt frame 2).toNat
  if byteSum frame ≠ 0 ∨ Config.maxParameters < n then .frameError
  else
    match commandLength (byteAt frame 0) with
    | none => .unknownCommand
    | some m =>
      if n ≠ m then .badLength
      else
        match decodeCommand p (byteAt frame 1) (byteAt frame 0) ((frame.drop 3).take n) with
        | none => .unknownCommand
        | some i => .command i

/-! ### Writing a frame -/

def bankBlockBytes (b : BankBlock) : List Byte :=
  b.present :: Machine.wordBytes b.low ++ Machine.wordBytes b.high ++ Machine.wordBytes b.hysteresis

def defBlockBytes (b : DefBlock) : List Byte :=
  [b.kind, b.input, b.rangeOrPolarity, b.start, b.lifetime, b.policy, b.share, b.settle] ++
    Machine.halfBytes b.interval ++ Machine.halfBytes b.gateOrLimit ++ [b.qualify, b.notify] ++
    bankBlockBytes b.bankA ++ [b.reserved]

/-- The port, tag, code and parameter bytes of a port command; none for a row that is no port command (R177). -/
def commandParts : Instr → Option (Port × Byte × Byte × List Byte)
  | .identify p t => some (p, t, 0x01, [])
  | .createWatch p t b => some (p, t, 0x10, defBlockBytes b)
  | .modifyWatch p t h b => some (p, t, 0x11, [h.index, h.generation] ++ defBlockBytes b)
  | .writeBank p t h k => some (p, t, 0x12, [h.index, h.generation] ++ bankBlockBytes k)
  | .swapBank p t h => some (p, t, 0x13, [h.index, h.generation])
  | .arm p t h d => some (p, t, 0x14, [h.index, h.generation] ++ Machine.halfBytes d)
  | .disarm p t h => some (p, t, 0x15, [h.index, h.generation])
  | .retire p t h => some (p, t, 0x16, [h.index, h.generation])
  | .sample p t h => some (p, t, 0x17, [h.index, h.generation])
  | .readWatch p t h => some (p, t, 0x20, [h.index, h.generation])
  | .readValue p t h => some (p, t, 0x21, [h.index, h.generation])
  | .listWatches p t => some (p, t, 0x22, [])
  | .fetchAttention p t => some (p, t, 0x30, [])
  | .attentionEnable p t v => some (p, t, 0x31, [v])
  | .setCorrection p t i r g o => some (p, t, 0x40, [i, r] ++ Machine.halfBytes g ++ Machine.halfBytes o)
  | .readCorrection p t i r => some (p, t, 0x41, [i, r])
  | .setFilter p t n f => some (p, t, 0x48, [n, f])
  | .readInputs p t => some (p, t, 0x49, [])
  | .triggerConfig p t l m e => some (p, t, 0x50, [l, m, e])
  | .triggerRearm p t l => some (p, t, 0x51, [l])
  | .hold p t => some (p, t, 0x58, [])
  | .resume p t => some (p, t.tag, 0x59, [])
  | .referenceCheck p t => some (p, t, 0x60, [])
  | .readConverters p t => some (p, t, 0x61, [])
  | .portReset p t => some (p, t.tag, 0x7F, [])
  | _ => none

/-- A command as its frame spells it: what comes between the claims of RESUME and PORT RESET is no part of a frame (log 15). -/
def Instr.asSent (i : Instr) : Instr :=
  match i with
  | .resume p t => .resume p ⟨t.tag, [], []⟩
  | .portReset p t => .portReset p ⟨t.tag, [], []⟩
  | i => i

/-- The request frame of a command code with a tag and parameters: the check byte makes the sum 0 (R167). -/
def makeFrame (tag code : Byte) (ps : List Byte) : List Byte :=
  let body := [code, tag, BitVec.ofNat 8 ps.length] ++ ps
  body ++ [-(byteSum body)]

/-- The request frame of a port command (R167, R177). -/
def encodeFrame (i : Instr) : Option (List Byte) :=
  match commandParts i with
  | none => none
  | some (_, tag, code, ps) => some (makeFrame tag code ps)

end Sys2Proof
end

