-- ==== Sys2Proof/Machine/Window.lean ====
section
/-! DEFINITION. The command window of a port, and the checks that stand before a command's effect: port validation, handle,
owner (spec/10 R166 to R172, spec/01 R13, R15, spec/02 R21). -/

namespace Sys2Proof.Machine

/-- How an owning block answers a command (R169): OK with data, a refusal without, or later. -/
inductive Reply where
  | ok (data : List Byte)
  | refuse (status : Status)
  | later
deriving DecidableEq, Repr

def State.setWindow (s : State) (p : Port) (w : CommandWindow) : State := s.setPort p { s.port p with window := w }

def State.setBus (s : State) (p : Port) (b : Bus) : State := s.setPort p { s.port p with bus := b }

/-- A window's partial frame is discarded, and it returns to IDLE (R167). -/
def CommandWindow.discardPartial (w : CommandWindow) : CommandWindow :=
  match w with
  | .receiving _ => .idle
  | w => w

/-- The window as a transaction's end leaves it: a partial frame is discarded (R167), and a response whose last byte a read has
transmitted is consumed (R172). -/
def PortState.windowAtEnd (v : PortState) : CommandWindow :=
  match v.bus, v.window with
  | .reading (.ready _) sent, .ready r => if r.frame.length ≤ sent then .idle else .ready r
  | _, w => w.discardPartial

/-- The transaction in progress on the port, if any, ends, and SCL is high (R167, R172). -/
def State.endTransaction (s : State) (p : Port) : State :=
  s.setPort p { s.port p with bus := .none, window := (s.port p).windowAtEnd, scl := .high, stall := 0 }

/-- Where SCL rests after a byte: low at port B, DESIGN CHOICE (log 19); port A has none. -/
def sclAfterByte : Port → Level
  | .a => .high
  | .b => .low

/-- The clock of a byte passes: at port B SCL has risen, and it then rests low (R175). -/
def State.clockByte (s : State) (p : Port) : State := s.setPort p { s.port p with scl := sclAfterByte p, stall := 0 }

/-- A new transaction ends the one before, and its first byte, the opening, passes. -/
def State.startTransaction (s : State) (p : Port) : State := (s.endTransaction p).clockByte p

/-- What a port drives during `n` bytes of a write transaction: SDO carries 00h, port B acknowledges alone (R173, R174). -/
def writeDrive (p : Port) (n : Nat) : List Byte :=
  match p with
  | .a => List.replicate n 0
  | .b => []

def State.drive (s : State) (p : Port) (bytes : List Byte) (taken : Bool) : State :=
  s.setPort p { s.port p with driven := bytes, acknowledged := taken }

/-- The bytes a read of `count` bytes receives from a window (R172). -/
def CommandWindow.readBytes (w : CommandWindow) (count : Nat) : List Byte :=
  match w with
  | .ready r => (r.frame ++ List.replicate count 0x00).take count
  | .executing .. => List.replicate count 0x01
  | _ => List.replicate count 0x02

/-- A response read begins: it finds the window as the end of the transaction before leaves it, and SDO carries 00h for the
direction byte (R172, R173). -/
def State.beginRead (s : State) (p : Port) : State :=
  let s1 := s.startTransaction p
  (s1.setBus p (.reading (s1.port p).window 0)).drive p (writeDrive p 1) true

/-- `n` more bytes of the response read in progress are transmitted; the window stands until the transaction ends (R172). -/
def State.readMore (s : State) (p : Port) (found : CommandWindow) (sent n : Nat) : State :=
  (s.setBus p (.reading found (sent + n))).drive p
    ((s.port p).driven ++ (found.readBytes (sent + n)).drop sent) (s.port p).acknowledged

/-- A write transaction begins while the port's window is EXECUTING: it is discarded in full, and the window is marked (R170). -/
def State.collide (s : State) (p : Port) : State :=
  match (s.port p).window with
  | .executing tag _ =>
    (((s.startTransaction p).setBus p .discarding).drive p (writeDrive p 2) true).setWindow p (.executing tag true)
  | _ => s

/-- One transaction of port `p` before its command's answer, left in progress (R170, R172, R184). -/
def State.ownTransaction (p : Port) (s : State) (o : OwnTransaction) : State :=
  match o with
  | .write => s.collide p
  | .read count => (s.beginRead p).readMore p ((s.beginRead p).port p).window 0 count

/-- The transactions of port `p` before its command's answer. They touch nothing but the port, which no claim of the command reads,
so their place among those claims makes no difference (R166). -/
def State.ownTransactions (s : State) (p : Port) (own : List OwnTransaction) : State := own.foldl (State.ownTransaction p) s

/-- The window forms the response and becomes READY; the marker it carries is the window's (R169, R170). -/
def State.answer (s : State) (p : Port) (status : Status) (data : List Byte) : State :=
  match (s.port p).window with
  | .executing tag marker => s.setWindow p (.ready ⟨status, marker, tag, data⟩)
  | _ => s

/-- The reply of an owning block reaches the window (R169). -/
def State.reply (s : State) (p : Port) (r : Reply) : State :=
  match r with
  | .ok data => s.answer p .ok data
  | .refuse status => s.answer p status []
  | .later => s

/-- A command of a port, sent as one whole request frame with `len` parameter bytes of which `valid` says whether they lie
within their encodings and ranges. On an EXECUTING window the frame is discarded and marks it (R170). Otherwise a held
response is discarded (R171), and the frame is refused with BAD_PARAMETER or handed to the owning block `body` (R168),
whose reply the window holds (R169). While RESET# is asserted nothing happens (log 9). -/
def State.command (s : State) (p : Port) (tag : Byte) (len : Nat) (valid : Bool)
    (body : State → State × Reply) : State :=
  if s.resetAsserted then s else
  let s0 := (s.endTransaction p).drive p (writeDrive p (len + 5)) true
  match (s0.port p).window with
  | .executing t _ => s0.setWindow p (.executing t true)
  | _ =>
    if valid then
      let r := body (s0.setWindow p (.executing tag false))
      r.1.reply p r.2
    else s0.setWindow p (.ready ⟨.badParameter, false, tag, []⟩)

/-- The handle checks, in the order of R13; none where the handle is accepted. -/
def State.handleStatus (s : State) (h : Handle) : Option Status :=
  if handleInRange h = false then some .badParameter
  else
    let e := s.entry (handleEntry h)
    match e.state with
    | .free => some .badHandle
    | .retiring => some .staleHandle
    | _ => if e.generation.toNat = h.generation.toNat then none else some .staleHandle

/-- The ownership check: a non-owner may only read, and only a SHARED watch (R15). -/
def ownerStatus (p : Port) (reads : Bool) (w : Watch) : Option Status :=
  if w.defn.owner = p then none
  else if reads && decide (w.defn.contract.share = .shared) then none
  else some .notOwner

/-- A command on the watch that a handle names: the handle and ownership checks of R21, then `k` on the entry and its watch. -/
def State.withWatch (s : State) (p : Port) (h : Handle) (reads : Bool)
    (k : EntryIndex → Watch → State × Reply) : State × Reply :=
  match s.handleStatus h with
  | some st => (s, .refuse st)
  | none =>
    match (s.entry (handleEntry h)).watch with
    | none => (s, .refuse .badHandle)
    | some w =>
      match ownerStatus p reads w with
      | some st => (s, .refuse st)
      | none => k (handleEntry h) w

end Sys2Proof.Machine
end

