-- ==== Sys2Proof/Machine/AttentionCommands.lean ====
section
/-! DEFINITION. The attention family: FETCH ATTENTION and ATTENTION ENABLE (spec/09). -/

namespace Sys2Proof.Machine

/-- The attention context after member `i` has been fetched: the member is gone and the cursor is past it (R159). -/
def Attention.fetched (a : Attention) (i : EntryIndex) : Attention :=
  { a with causes := a.causes.set i 0, cursor := i + 1 }

/-- FETCH ATTENTION at port `p`'s context (R159, R160). -/
def fetchAttentionBody (p : Port) (s : State) : State × Reply :=
  let a := s.attention p
  match a.select with
  | none => (s, .refuse .empty)
  | some i =>
    let a' := a.fetched i
    (s.setAttention p a',
      .ok [byteOf i.val, byteOf (s.entry i).generation.toNat, a.causes[i].setWidth 8, byteOf a'.members])

def execFetchAttention (p : Port) (tag : Byte) (s : State) : Host.Outcome State Fault Refusal :=
  .next (s.command p tag 0 true (fetchAttentionBody p))

def attentionEnableBody (p : Port) (value : Byte) (s : State) : State × Reply :=
  match decodeSwitch value with
  | none => (s, .refuse .badParameter)
  | some on => (s.setAttention p { s.attention p with enable := on }, .ok [])

/-- ATTENTION ENABLE (R162). -/
def execAttentionEnable (p : Port) (tag : Byte) (value : Byte) (s : State) : Host.Outcome State Fault Refusal :=
  .next (s.command p tag 1 (decodeSwitch value).isSome (attentionEnableBody p value))

end Sys2Proof.Machine
end

