-- ==== Sys2Proof/Machine/ConversionCommands.lean ====
section
/-! DEFINITION. The conversion family: REFERENCE CHECK, READ CONVERTERS and the converters' events (spec/05). -/

namespace Sys2Proof.Machine

/-- A CHECK request is appended to a converter's queue (R98). -/
def State.appendCheck (s : State) (c : ConverterId) : State :=
  s.setConverter c { s.converter c with queue := (s.converter c).queue ++ [Request.check] }

/-- REFERENCE CHECK at the check context and both queues (R98). -/
def referenceCheckBody (p : Port) (s : State) : State × Reply :=
  if s.check.issuer.isSome then (s, .refuse .checkBusy)
  else if Config.queueCapacity ≤ s.conv0.queue.length ∨ Config.queueCapacity ≤ s.conv1.queue.length then
    (s, .refuse .queueFull)
  else ({ (s.appendCheck .c0).appendCheck .c1 with check := ⟨some p, none, none⟩ }, .later)

/-- REFERENCE CHECK (R98); accepted, it leaves the window EXECUTING (R183). -/
def execReferenceCheck (p : Port) (tag : Byte) (s : State) : Host.Outcome State Fault Refusal :=
  .next (s.command p tag 0 true (referenceCheckBody p))

/-- READ CONVERTERS (R102). -/
def execReadConverters (p : Port) (tag : Byte) (s : State) : Host.Outcome State Fault Refusal :=
  .next (s.command p tag 0 true fun s => (s, .ok (readConvertersData s)))

/-- WARMUP_EXPIRY: at device time 200 a converter becomes IDLE or takes its oldest request (R83). -/
def execWarmupExpiry (c : ConverterId) (s : State) : Host.Outcome State Fault Refusal :=
  .next (
    if s.resetAsserted ∨ (s.converter c).state ≠ .warmup then s else
    match s.runTo (s.converterLeft c) with
    | none => s
    | some s' => s'.takeNext c)

/-- REQUEST_START: an IDLE converter with a waiting request takes the oldest (R84; log 11). How long after the request's
append it comes is not stated (log 27). -/
def execRequestStart (c : ConverterId) (s : State) : Host.Outcome State Fault Refusal :=
  .next (if s.resetAsserted then s else s.startIdle c)

/-- The conversion begins (R85). -/
def Converter.beginConversion (v : Converter) : Converter :=
  { v with state := .converting, timer := Config.conversionMicros }

/-- SETTLE_EXPIRY (R85). -/
def execSettleExpiry (c : ConverterId) (s : State) : Host.Outcome State Fault Refusal :=
  .next (
    if s.resetAsserted ∨ (s.converter c).state ≠ .settling then s else
    match s.runTo (s.converterLeft c) with
    | none => s
    | some s' => s'.setConverter c (s'.converter c).beginConversion)

/-- The NORMAL request that a converter is converting, its input with it. -/
def Converter.normalCurrent (v : Converter) : Option (Request × AnalogInput) :=
  if v.state = .converting ∧ v.delivering = none then
    match v.current with
    | some r =>
      match r.source with
      | .ain i => some (r, i)
      | .checkSource => none
    | none => none
  else none

/-- Whether a converter is converting a CHECK request. -/
def Converter.checkCurrent (v : Converter) : Bool :=
  decide (v.state = .converting) && v.current.any Request.isCheck

/-- The completion of a NORMAL request: its one outcome stands for delivery to every subscriber (R93, R109). -/
def State.complete (s : State) (c : ConverterId) (r : Request) (input : AnalogInput) (level : Int) : State :=
  let v := s.converter c
  let o := conversionOutcome v.fault (s.correction input r.range) r.range (rawCode r.range level)
  let s' := s.setConverter c { v with delivering := some o }
  if r.subscribers = [] then s'.takeNext c else s'

/-- CONVERSION_COMPLETION (R93, R94). -/
def execConversionCompletion (c : ConverterId) (level : Int) (s : State) : Host.Outcome State Fault Refusal :=
  .next (
    if s.resetAsserted then s else
    match (s.converter c).normalCurrent with
    | none => s
    | some (r, input) =>
      match s.runTo (s.converterLeft c) with
      | none => s
      | some s' => s'.complete c r input level)

/-- The check ends at the second completion: the issuing port is answered with both results (R100). -/
def State.endCheck (s : State) : State :=
  match s.check.issuer with
  | none => s
  | some p =>
    if s.check.result0.isSome ∧ s.check.result1.isSome then
      ({ s with check := { s.check with issuer := none } }).answer p .ok
        (checkResultBytes s.check.result0 ++ checkResultBytes s.check.result1)
    else s

/-- A CHECK conversion completes with a raw code: the result is recorded, the fault flag written, and the converter goes on
(R99). -/
def State.completeCheck (s : State) (c : ConverterId) (raw : Nat) : State :=
  let pass := checkPasses raw
  let s1 := s.setConverter c { s.converter c with fault := !pass }
  let s2 := { s1 with check := s1.check.setResult c ⟨raw, pass⟩ }
  (s2.takeNext c).endCheck

/-- CHECK_COMPLETION (R99, R100). -/
def execCheckCompletion (c : ConverterId) (level : Int) (s : State) : Host.Outcome State Fault Refusal :=
  .next (
    if s.resetAsserted ∨ (s.converter c).checkCurrent = false then s else
    match s.runTo (s.converterLeft c) with
    | none => s
    | some s' => s'.completeCheck c (rawCode 1 level))

end Sys2Proof.Machine
end

