-- ==== Sys2Proof/Machine/CorrectionCommands.lean ====
section
/-! DEFINITION. The correction family: SET CORRECTION and READ CORRECTION (spec/06). -/

namespace Sys2Proof.Machine

def setCorrectionBody (input range : Byte) (gain offset : Half) (s : State) : State × Reply :=
  match decodeCorrectionKey input range, decodeOffset offset with
  | some (i, r), some off =>
    let k : Correction := ⟨gain.toNat, off⟩
    (s.setCorrection i r k, .ok (correctionData i r k))
  | _, _ => (s, .refuse .badParameter)

/-- SET CORRECTION (R110). -/
def execSetCorrection (p : Port) (tag : Byte) (input range : Byte) (gain offset : Half) (s : State) :
    Host.Outcome State Fault Refusal :=
  .next (s.command p tag 6 ((decodeCorrectionKey input range).isSome && (decodeOffset offset).isSome)
    (setCorrectionBody input range gain offset))

def readCorrectionBody (input range : Byte) (s : State) : State × Reply :=
  match decodeCorrectionKey input range with
  | some (i, r) => (s, .ok (correctionData i r (s.correction i r)))
  | none => (s, .refuse .badParameter)

/-- READ CORRECTION (R111). -/
def execReadCorrection (p : Port) (tag : Byte) (input range : Byte) (s : State) : Host.Outcome State Fault Refusal :=
  .next (s.command p tag 2 (decodeCorrectionKey input range).isSome (readCorrectionBody input range))

end Sys2Proof.Machine
end

