-- ==== Sys2Proof/Machine/Resume.lean ====
section
/-! DEFINITION. The longer commands' claims, one after the other: the resume work, the clearing of a hold claim, and the retirements
of PORT RESET (spec/03 R62, R64, R66; spec/02 R41). What comes just before a claim is a parameter, `before`: each of the two rows
gives it (Interleaving.lean). -/

namespace Sys2Proof.Machine

/-- Nothing comes between the claims. -/
def nothingBefore : Claim → State → State := fun _ s => s

/-! ### The resume work (R64) -/

/-- Whether the due time of entry `i` has been reached (R47). -/
def State.dueReached (s : State) (i : EntryIndex) : Bool :=
  (s.entry i).watch.any fun w => w.dyn.due.any fun d => reached d s.now

/-- Whether the due time of entry `i` plus its interval has been reached (R47, R49). -/
def State.lateReached (s : State) (i : EntryIndex) : Bool :=
  (s.entry i).watch.any fun w => w.lateTime.any fun d => reached d s.now

/-- The lateness status of a member by the device time at which the last claim is cleared: PAST_DUE once its due time has been
reached under the hold, LATE one interval later (R49, R63), whether or not its change has been taken yet. -/
def State.settled (s : State) (m : DueMember) : DueMember :=
  let m1 : DueMember := if m.lateness = .onTime ∧ s.dueReached m.entry = true then { m with lateness := .pastDue } else m
  if m1.lateness = .pastDue ∧ s.lateReached m.entry = true then { m1 with lateness := .late } else m1

/-- Every member of the due list takes the status it has by now (R49). -/
def State.settleLateness (s : State) : State := { s with dueList := s.dueList.map s.settled }

/-- The claim of entry `i` in the first step of the resume work: a member that is PAST_DUE or LATE by then is expired (R64 step 1). -/
def State.resumeExpiry (before : Claim → State → State) (s : State) (i : EntryIndex) : State :=
  let s' := before (.expiry i) s
  match s'.lateness i with
  | some .pastDue => s'.expire i .pastDue
  | some .late => s'.expire i .late
  | _ => s'

/-- The service of one entry in the resume work (R64 step 2). -/
def State.resumeService (before : Claim → State → State) (s : State) (i : EntryIndex) : State :=
  (before (.service i) s).serviceHeld i

/-- The resume work: every PAST_DUE or LATE member is expired in list order, then every held trigger of an idle ARMED watch is
serviced in index order (R64). What R64 admits between its claims, and the model's choice beyond it, is log 15. -/
def State.resumeWork (s : State) (before : Claim → State → State) : State :=
  let s0 := s.settleLateness
  let s1 := ((s0.dueList.filter fun m => decide (m.lateness ≠ .onTime)).map (·.entry)).foldl (State.resumeExpiry before) s0
  allEntries.foldl (State.resumeService before) s1

/-- Port `p`'s hold claim is cleared; the clearing of the last claim does the resume work (R62, R66). -/
def State.releaseHold (s : State) (p : Port) (before : Claim → State → State) : State :=
  let s1 := s.setHold p false
  if s.hold p = true ∧ s1.isHeld = false then s1.resumeWork before else s1

/-! ### The retirements of PORT RESET (R41) -/

/-- PORT RESET comes to one entry, which is retired if `p` owns it (R41). -/
def State.portRetirement (p : Port) (before : Claim → State → State) (s : State) (i : EntryIndex) : State :=
  State.retireOwned p (before (.retirement i) s) i

/-- The retirements of PORT RESET, in ascending index (log 13). -/
def State.retireAll (s : State) (p : Port) (before : Claim → State → State) : State :=
  allEntries.foldl (State.portRetirement p before) s

end Sys2Proof.Machine
end

