-- ==== Sys2Proof/Machine/SchedulerCommands.lean ====
section
/-! DEFINITION. The scheduler family: HOLD, RESUME, interval expiries and lateness (spec/03). -/

namespace Sys2Proof.Machine

/-- HOLD (R61). -/
def execHold (p : Port) (tag : Byte) (s : State) : Host.Outcome State Fault Refusal :=
  .next (s.command p tag 0 true fun s =>
    let s' := s.setHold p true
    (s', .ok (holdData s')))

/-- RESUME at the scheduler (R62, R64), with what comes before its claims and what its port does before the answer. -/
def resumeBody (p : Port) (own : List OwnTransaction) (before : Claim → State → State) (s : State) : State × Reply :=
  let s' := (s.ownTransactions p own).releaseHold p before
  (s', .ok (holdData s'))

/-- INTERVAL_EXPIRY: the head of the due list reaches its due time while the scheduler is not held (R50, R51). -/
def execIntervalExpiry (s : State) : Host.Outcome State Fault Refusal :=
  .next (
    if s.resetAsserted then s else
    match s.dueList, s.runTo s.expiryLeft with
    | m :: _, some s' => s'.expire m.entry m.lateness
    | _, _ => s)

/-- The member of the due list that names entry `i`. -/
def State.memberOf (s : State) (i : EntryIndex) : Option DueMember :=
  s.dueList.find? fun m => decide (m.entry = i)

/-- BECOME_PAST_DUE: while held, a member's due time is reached (R49). -/
def execBecomePastDue (i : EntryIndex) (s : State) : Host.Outcome State Fault Refusal :=
  .next (
    if s.resetAsserted then s else
    match s.runTo ((s.memberOf i).bind s.pastDueLeft) with
    | none => s
    | some s' => s'.setLateness i .pastDue)

/-- BECOME_LATE: while held, device time reaches a PAST_DUE member's due time plus its interval (R49). -/
def execBecomeLate (i : EntryIndex) (s : State) : Host.Outcome State Fault Refusal :=
  .next (
    if s.resetAsserted then s else
    match s.runTo ((s.memberOf i).bind s.lateLeft) with
    | none => s
    | some s' => s'.setLateness i .late)

end Sys2Proof.Machine
end

