-- ==== Sys2Proof/Machine/TimingCommands.lean ====
section
/-! DEFINITION. The timing family: SET FILTER, READ INPUTS, transitions of the DIN inputs, limit and gate expiries
(spec/07; READ INPUTS with spec/04 R78). -/

namespace Sys2Proof.Machine

/-- SET FILTER at an input that no engine names: the setting changes, and the filtered level takes the raw level at once where
the raw level has held for the new filter time; what is still being filtered goes on, counted from its raw change (R117). -/
def DinContext.refilter (d : DinContext) (f : FilterSetting) : DinContext :=
  if d.setting = f then d
  else if d.raw ≠ d.level ∧ f.micros ≤ d.rawHeld then { d with setting := f, level := d.raw }
  else { d with setting := f }

def setFilterBody (input setting : Byte) (s : State) : State × Reply :=
  match decodeTimingInput input, decodeFilter setting with
  | some n, some f =>
    if s.inputBusy n then (s, .refuse .inputBusy) else (s.setDin n ((s.din n).refilter f), .ok [])
  | _, _ => (s, .refuse .badParameter)

/-- SET FILTER (R117). -/
def execSetFilter (p : Port) (tag : Byte) (input setting : Byte) (s : State) : Host.Outcome State Fault Refusal :=
  .next (s.command p tag 2 ((decodeTimingInput input).isSome && (decodeFilter setting).isSome)
    (setFilterBody input setting))

/-- READ INPUTS (R78, R119). -/
def execReadInputs (p : Port) (tag : Byte) (s : State) : Host.Outcome State Fault Refusal :=
  .next (s.command p tag 0 true fun s => (s, .ok (readInputsData s)))

/-- The filtered level of input `n` takes its raw level where that has held for the filter time (R115). -/
def State.filterDin (s : State) (n : TimingInput) : State :=
  let d := s.din n
  if d.raw ≠ d.level ∧ d.setting.micros ≤ d.rawHeld then s.dinEdge n d.raw else s

/-- The raw level of a DIN pin is now `level`: a transition that is due is taken first, since its level has held for the filter
time, and a change begins to be filtered (R115). -/
def State.pinDin (s : State) (n : TimingInput) (level : Level) : State :=
  if (s.din n).raw = level then s
  else
    let s1 := s.filterDin n
    s1.setDin n { s1.din n with raw := level, rawHeld := 0 }

/-- DIN_TRANSITION (R115, R116; log 7). -/
def execDinTransition (n : TimingInput) (level : Level) (held : Nat) (s : State) : Host.Outcome State Fault Refusal :=
  .next (if s.resetAsserted then s else ((s.pinDin n level).dwell held).filterDin n)

/-- Whether an engine measures against a limit (R128). -/
def Engine.limited (v : Engine) : Bool := decide (v.state = .awaitStart) || decide (v.state = .timing)

/-- LIMIT_EXPIRY: the measurement completes STALLED with the limit in µs as its value (R128). -/
def execLimitExpiry (e : EngineIndex) (s : State) : Host.Outcome State Fault Refusal :=
  .next (
    if s.resetAsserted ∨ (s.engine e).limited = false then s else
    match s.runTo (s.engine e).left with
    | none => s
    | some s' => s'.setEngine e ((s'.engine e).completed .stalled (s'.engine e).expiry))

/-- GATE_EXPIRY: the measurement completes NORMAL with the count as its value (R127). -/
def execGateExpiry (e : EngineIndex) (s : State) : Host.Outcome State Fault Refusal :=
  .next (
    if s.resetAsserted ∨ (s.engine e).state ≠ .gating then s else
    match s.runTo (s.engine e).left with
    | none => s
    | some s' => s'.setEngine e ((s'.engine e).completed .normal (s'.engine e).count))

end Sys2Proof.Machine
end

