-- ==== Sys2Proof/Machine/TriggerCommands.lean ====
section
/-! DEFINITION. The trigger family: TRIGGER CONFIG, TRIGGER REARM, transitions of the lines and waiting edges (spec/04). -/

namespace Sys2Proof.Machine

def triggerConfigBody (line mode edge : Byte) (s : State) : State × Reply :=
  match decodeTrgLine line, decodeTrgMode mode, decodeTrgEdge edge with
  | some l, some m, some e =>
    (s.setLine l { s.line l with mode := m, edge := e, sub := if m = .once then some .ready else none }, .ok [])
  | _, _, _ => (s, .refuse .badParameter)

/-- TRIGGER CONFIG (R75). -/
def execTriggerConfig (p : Port) (tag : Byte) (line mode edge : Byte) (s : State) : Host.Outcome State Fault Refusal :=
  .next (s.command p tag 3
    ((decodeTrgLine line).isSome && (decodeTrgMode mode).isSome && (decodeTrgEdge edge).isSome)
    (triggerConfigBody line mode edge))

def triggerRearmBody (line : Byte) (s : State) : State × Reply :=
  match decodeTrgLine line with
  | some l =>
    if (s.line l).mode = .once then (s.setLine l { s.line l with sub := some .ready }, .ok [])
    else (s, .refuse .badState)
  | none => (s, .refuse .badParameter)

/-- TRIGGER REARM (R76). -/
def execTriggerRearm (p : Port) (tag : Byte) (line : Byte) (s : State) : Host.Outcome State Fault Refusal :=
  .next (s.command p tag 1 (decodeTrgLine line).isSome (triggerRearmBody line))

/-- The filtered level of a line takes its raw level where that has held for 2 µs (R69). -/
def State.filterTrg (s : State) (l : TrgLine) (n : Nat) : State :=
  let t := s.line l
  if t.raw ≠ t.level ∧ Config.trgFilterMicros ≤ t.rawHeld then s.trgEdge l n else s

/-- The raw level of a trigger pin is now `level`: a transition that is due is taken first, since its level has held for 2 µs,
and a change begins to be filtered (R69). -/
def State.pinTrg (s : State) (l : TrgLine) (level : Level) (n : Nat) : State :=
  if (s.line l).raw = level then s
  else
    let s1 := s.filterTrg l n
    s1.setLine l { s1.line l with raw := level, rawHeld := 0 }

/-- TRG_TRANSITION (R69, R70, R71; log 7, log 8). -/
def execTrgTransition (line : TrgLine) (level : Level) (held examined : Nat) (s : State) :
    Host.Outcome State Fault Refusal :=
  .next (if s.resetAsserted then s else
    ((s.pinTrg line level examined).dwell held).filterTrg line examined)

/-- A line's waiting edge, if any, is taken by the mode and sub-state then standing (R73). -/
def State.takeWaiting (s : State) (l : TrgLine) (n : Nat) : State :=
  if (s.line l).waiting then (s.setLine l { s.line l with waiting := false }).takeEdge l n else s

/-- The fan-out in progress on a line goes on for `n` entries; where it has examined entry 63 it ends, and the waiting edge is
taken (R73). -/
def State.goOn (s : State) (l : TrgLine) (n : Nat) : State :=
  match (s.line l).fanOut with
  | none => s.takeWaiting l n
  | some k => if k + n < 64 then s.fanOut l k n else (s.fanOut l k n).takeWaiting l (k + n - 64)

/-- WAITING_EDGE (R73; log 8). -/
def execWaitingEdge (line : TrgLine) (examined : Nat) (s : State) : Host.Outcome State Fault Refusal :=
  .next (if s.resetAsserted then s else s.goOn line examined)

end Sys2Proof.Machine
end

