-- ==== Sys2Proof/Machine/WatchCommands.lean ====
section
/-! DEFINITION. The watch table family: CREATE WATCH to LIST WATCHES (spec/01, spec/02). -/

namespace Sys2Proof.Machine

/-! ### CREATE WATCH (R17, R22) -/

/-- The lowest-numbered FREE entry (R17). -/
def State.freeEntry (s : State) : Option EntryIndex :=
  allEntries.find? fun i => decide ((s.entry i).state = .free)

/-- A watch at creation (R17). -/
def Watch.created (p : Port) (c : Contract) (bankA : Option Threshold) : Watch :=
  ⟨⟨c, p, bankA, none, .a⟩, Dynamic.atCreation⟩

def createWatchBody (p : Port) (block : DefBlock) (s : State) : State × Reply :=
  match blockCreation block with
  | none => (s, .refuse .badParameter)
  | some (c, bankA) =>
    match s.freeEntry with
    | none => (s, .refuse .tableFull)
    | some i =>
      let g := (s.entry i).generation
      (s.setEntry i ⟨.defined, g, .none, some (Watch.created p c bankA)⟩, .ok [byteOf i.val, byteOf g.toNat])

def execCreateWatch (p : Port) (tag : Byte) (block : DefBlock) (s : State) : Host.Outcome State Fault Refusal :=
  .next (s.command p tag 28 (blockCreation block).isSome (createWatchBody p block))

/-! ### MODIFY WATCH (R5, R23 to R26, R49) -/

/-- Whether a block's start may stand for the watch's in ARMED: the same, but for the interval (R25). -/
def Start.sameBut : Start → Start → Bool
  | .interval _, .interval _ => true
  | .trg l, .trg m => decide (l = m)
  | .command, .command => true
  | _, _ => false

/-- Whether a block differs from the definition only in the five fields that may change in ARMED (R25). -/
def Contract.permitted (old new : Contract) : Bool :=
  decide (new.measure = old.measure) && decide (new.share = old.share) && old.start.sameBut new.start

/-- The watch under a new contract: a changed qualify clears the candidate, DROP clears the held trigger (R23, R26). -/
def Watch.modified (w : Watch) (c : Contract) : Watch where
  defn := { w.defn with contract := c }
  dyn := { w.dyn with
    candidate := if c.qualify = w.defn.contract.qualify then w.dyn.candidate else none
    heldTrigger := if c.policy = .drop then false else w.dyn.heldTrigger }

/-- A PAST_DUE member whose new interval has run out becomes LATE at once (R49). -/
def State.retestLateness (s : State) (i : EntryIndex) (w : Watch) : State :=
  match s.lateness i, w.lateTime with
  | some .pastDue, some t => if reached t s.now then s.setLateness i .late else s
  | _, _ => s

def modifyWatchAt (s : State) (c : Contract) (i : EntryIndex) (w : Watch) : State × Reply :=
  let e := s.entry i
  let s' := s.setEntry i { e with watch := some (w.modified c) }
  match e.state with
  | .armed =>
    if w.defn.contract.permitted c then (s'.retestLateness i (w.modified c), .ok [])
    else (s, .refuse .badState)
  | _ =>
    if e.activity ≠ .none then (s, .refuse .badState)
    else if bankWithin w.defn.bankA c.measure.kind.limits && bankWithin w.defn.bankB c.measure.kind.limits then (s', .ok [])
    else (s, .refuse .badParameter)

def modifyWatchBody (p : Port) (h : Handle) (block : DefBlock) (s : State) : State × Reply :=
  match blockContract block with
  | none => (s, .refuse .badParameter)
  | some c => s.withWatch p h false (modifyWatchAt s c)

def execModifyWatch (p : Port) (tag : Byte) (h : Handle) (block : DefBlock) (s : State) :
    Host.Outcome State Fault Refusal :=
  .next (s.command p tag 30 (blockContract block).isSome (modifyWatchBody p h block))

/-! ### WRITE BANK (R27, R28) -/

def writeBankAt (s : State) (k : Option Threshold) (i : EntryIndex) (w : Watch) : State × Reply :=
  if w.dyn.swapPending then (s, .refuse .badState)
  else if bankWithin k w.defn.contract.measure.kind.limits then
    (s.updateWatch i fun w => { w with defn := w.defn.setBank w.defn.active.other k }, .ok [])
  else (s, .refuse .badParameter)

def writeBankBody (p : Port) (h : Handle) (bank : BankBlock) (s : State) : State × Reply :=
  match decodeBank bank portLimits with
  | none => (s, .refuse .badParameter)
  | some k => s.withWatch p h false (writeBankAt s k)

def execWriteBank (p : Port) (tag : Byte) (h : Handle) (bank : BankBlock) (s : State) :
    Host.Outcome State Fault Refusal :=
  .next (s.command p tag 15 (decodeBank bank portLimits).isSome (writeBankBody p h bank))

/-! ### SWAP BANK (R29) -/

def swapBankAt (s : State) (i : EntryIndex) (w : Watch) : State × Reply :=
  if w.defn.inactiveBank = none ∨ w.dyn.swapPending = true then (s, .refuse .badState)
  else
    match (s.entry i).state with
    | .armed => (s.updateWatch i fun w => { w with dyn := { w.dyn with swapPending := true } }, .ok [])
    | _ => (s.updateWatch i Watch.toggleBanks, .ok [])

def execSwapBank (p : Port) (tag : Byte) (h : Handle) (s : State) : Host.Outcome State Fault Refusal :=
  .next (s.command p tag 2 true fun s => s.withWatch p h false (swapBankAt s))

/-! ### ARM (R31, R32) -/

/-- The watch as ARM leaves it, its due time apart (R32). -/
def Watch.armed (w : Watch) : Watch :=
  { w with dyn := { w.dyn with condition := .unknown, candidate := none, heldTrigger := false } }

/-- The effect of an accepted ARM: an INTERVAL watch joins the due list, and with a first delay of 0 its expiry is taken at
once unless the scheduler is held (R32, R50). -/
def State.armWatch (s : State) (i : EntryIndex) (w : Watch) (delay : Half) : State :=
  let s1 := s.setEntry i { s.entry i with state := .armed, watch := some w.armed }
  match w.defn.contract.start with
  | .interval _ =>
    let s2 := s1.joinDueList i (s1.now + intervalUnits delay.toNat)
    if delay = 0 ∧ s2.isHeld = false then s2.expire i .onTime else s2
  | _ => s1

def armAt (s : State) (delay : Half) (i : EntryIndex) (w : Watch) : State × Reply :=
  if (s.entry i).state ≠ .defined ∨ (s.entry i).activity ≠ .none then (s, .refuse .badState)
  else
    match w.defn.contract.start with
    | .interval _ => (s.armWatch i w delay, .ok [])
    | _ => if delay = 0 then (s.armWatch i w delay, .ok []) else (s, .refuse .badParameter)

def execArm (p : Port) (tag : Byte) (h : Handle) (delay : Half) (s : State) : Host.Outcome State Fault Refusal :=
  .next (s.command p tag 4 true fun s => s.withWatch p h false (armAt s delay))

/-! ### DISARM (R33 to R36) -/

def disarmAt (s : State) (i : EntryIndex) (_w : Watch) : State × Reply :=
  if (s.entry i).state ≠ .armed then (s, .refuse .badState)
  else
    let s1 := s.settleCompletion i
    if (s1.entry i).state ≠ .armed then (s1, .refuse .badState) else (s1.disarmWatch i, .ok [])

def execDisarm (p : Port) (tag : Byte) (h : Handle) (s : State) : Host.Outcome State Fault Refusal :=
  .next (s.command p tag 2 true fun s => s.withWatch p h false (disarmAt s))

/-! ### RETIRE (R37 to R40) -/

def retireAt (s : State) (i : EntryIndex) (w : Watch) : State × Reply :=
  ((s.settleCompletion i).retireWatch w.defn.owner i, .ok [])

def execRetire (p : Port) (tag : Byte) (h : Handle) (s : State) : Host.Outcome State Fault Refusal :=
  .next (s.command p tag 2 true fun s => s.withWatch p h false (retireAt s))

/-! ### SAMPLE (R42) -/

def sampleAt (s : State) (i : EntryIndex) (w : Watch) : State × Reply :=
  if (s.entry i).state ≠ .armed then (s, .refuse .badState)
  else if s.isHeld then (s, .refuse .held)
  else
    let r := s.startRequest i w
    (r.1, .ok [r.2.byte])

def execSample (p : Port) (tag : Byte) (h : Handle) (s : State) : Host.Outcome State Fault Refusal :=
  .next (s.command p tag 2 true fun s => s.withWatch p h false (sampleAt s))

/-! ### READ WATCH and READ VALUE (R16, R43, R44) -/

def readWatchAt (s : State) (i : EntryIndex) (w : Watch) : State × Reply :=
  (s, .ok (readWatchData (s.entry i) w))

def execReadWatch (p : Port) (tag : Byte) (h : Handle) (s : State) : Host.Outcome State Fault Refusal :=
  .next (s.command p tag 2 true fun s => s.withWatch p h true (readWatchAt s))

/-- The snapshot; the owner's read then sets the overrun count to 0 (R16, R44). -/
def readValueAt (s : State) (p : Port) (i : EntryIndex) (w : Watch) : State × Reply :=
  let data := readValueData (s.entry i) w s.now
  if w.defn.owner = p then
    (s.updateWatch i fun w => { w with dyn := { w.dyn with overruns := 0 } }, .ok data)
  else (s, .ok data)

def execReadValue (p : Port) (tag : Byte) (h : Handle) (s : State) : Host.Outcome State Fault Refusal :=
  .next (s.command p tag 2 true fun s => s.withWatch p h true (readValueAt s p))

/-! ### LIST WATCHES (R45) -/

def listWatchesData (s : State) (p : Port) : List Byte :=
  setBytes (fun i => s.owns p i) ++
    setBytes (fun i => s.owns p i && decide ((s.entry i).state = .armed)) ++
    setBytes (fun i => s.owns (otherPort p) i)

def execListWatches (p : Port) (tag : Byte) (s : State) : Host.Outcome State Fault Refusal :=
  .next (s.command p tag 0 true fun s => (s, .ok (listWatchesData s p)))

end Sys2Proof.Machine
end

