-- ==== Sys2Proof/Machine/PortCommands.lean ====
section
/-! DEFINITION. The port family: IDENTIFY, PORT RESET, and the transactions on the two buses (spec/10). -/

namespace Sys2Proof.Machine

/-- IDENTIFY (R182). -/
def execIdentify (p : Port) (tag : Byte) (s : State) : Host.Outcome State Fault Refusal :=
  .next (s.command p tag 0 true fun s => (s, .ok identifyData))

/-- PORT RESET: the watch table, then the attention unit, then the scheduler (R41, R164, R66, R184), with what comes before its claims
and what its port does before the answer. -/
def portResetBody (p : Port) (own : List OwnTransaction) (before : Claim → State → State) (s : State) : State × Reply :=
  let s1 := ((s.ownTransactions p own).retireAll p before).setAttention p Attention.afterReset
  ((before .release s1).releaseHold p before, .ok [])

/-! ### Transactions -/

/-- The byte that opens a request write: 57h on port A (R173), the address with the write bit on port B (R174). -/
def State.writeOpening (s : State) : Port → Byte
  | .a => 0x57
  | .b => s.addressB.setWidth 8 <<< 1

/-- The byte that opens a response read: 52h on port A (R173), the address with the read bit on port B (R174). -/
def State.readOpening (s : State) : Port → Byte
  | .a => 0x52
  | .b => (s.addressB.setWidth 8 <<< 1) ||| 1

/-- A transaction that opens with a byte the port does not take: port A drives 00h and ignores the rest, port B does not
acknowledge (R173, R174). -/
def State.foreignTransaction (s : State) (p : Port) (count : Nat) : State :=
  let s1 := s.startTransaction p
  match p with
  | .a => (s1.setBus .a .ignoring).drive .a (List.replicate (count + 1) 0) false
  | .b => s1.drive .b [] false

/-- The next edge of SCL: it rises if it was low, which restarts the stall timer, and falls if it was high, from where the timer
counts (R175). Port A has no SCL. -/
def State.clockEdge (s : State) (p : Port) : State :=
  match p with
  | .a => s
  | .b => s.setPort .b { s.portB with scl := if s.portB.scl = .low then .high else .low, stall := 0 }

/-- The interface of port B abandons its transaction: a partial frame is discarded, and a READY response stays READY, which
R175 says of every read ended so, DESIGN CHOICE (log 28) where the frame's last byte had been transmitted. -/
def State.abandonTransaction (s : State) : State :=
  s.setPort .b { s.portB with bus := .none, window := s.portB.window.discardPartial, stall := 0 }

/-- PARTIAL_FRAME_DISCARD (R167). -/
def execPartialFrameDiscard (p : Port) (s : State) : Host.Outcome State Fault Refusal :=
  .next (if s.resetAsserted then s else s.endTransaction p)

/-- COLLIDING_WRITE (R170). -/
def execCollidingWrite (p : Port) (s : State) : Host.Outcome State Fault Refusal :=
  .next (
    if s.resetAsserted then s else s.collide p)

/-- STALL_TIMEOUT: SCL has stayed low for 25 ms in port B's unfinished transaction, which is abandoned (R175; log 19). -/
def execStallTimeout (s : State) : Host.Outcome State Fault Refusal :=
  .next (
    if s.resetAsserted then s else
    match s.runTo s.stallLeft with
    | none => s
    | some s' => s'.abandonTransaction)

/-! ### Request frames -/

/-- A port command that a frame has spelled is run, a RESUME or PORT RESET with nothing between its claims (log 15); any other row is
no frame's meaning. -/
def runCommand (i : Instr) (s : State) : Host.Outcome State Fault Refusal :=
  match i with
  | .identify p t => execIdentify p t s
  | .createWatch p t b => execCreateWatch p t b s
  | .modifyWatch p t h b => execModifyWatch p t h b s
  | .writeBank p t h k => execWriteBank p t h k s
  | .swapBank p t h => execSwapBank p t h s
  | .arm p t h d => execArm p t h d s
  | .disarm p t h => execDisarm p t h s
  | .retire p t h => execRetire p t h s
  | .sample p t h => execSample p t h s
  | .readWatch p t h => execReadWatch p t h s
  | .readValue p t h => execReadValue p t h s
  | .listWatches p t => execListWatches p t s
  | .fetchAttention p t => execFetchAttention p t s
  | .attentionEnable p t v => execAttentionEnable p t v s
  | .setCorrection p t i r g o => execSetCorrection p t i r g o s
  | .readCorrection p t i r => execReadCorrection p t i r s
  | .setFilter p t n f => execSetFilter p t n f s
  | .readInputs p t => execReadInputs p t s
  | .triggerConfig p t l m e => execTriggerConfig p t l m e s
  | .triggerRearm p t l => execTriggerRearm p t l s
  | .hold p t => execHold p t s
  | .resume p t => .next (s.command p t.tag 0 true (resumeBody p t.own nothingBefore))
  | .referenceCheck p t => execReferenceCheck p t s
  | .readConverters p t => execReadConverters p t s
  | .portReset p t => .next (s.command p t.tag 0 true (portResetBody p t.own nothingBefore))
  | _ => .next s

/-- The port itself answers a complete frame (R167, R168). -/
def State.answerFrame (s : State) (p : Port) (frame : List Byte) (status : Status) : State :=
  (s.setBus p .ignoring).setWindow p (.ready ⟨status, false, byteAt frame 1, []⟩)

/-- A complete frame is judged: answered at the port, or run as the command it spells (R167, R168). -/
def State.judgeFrame (s : State) (p : Port) (frame : List Byte) : Host.Outcome State Fault Refusal :=
  match decodeFrame p frame with
  | .frameError => .next (s.answerFrame p frame .frameError)
  | .unknownCommand => .next (s.answerFrame p frame .unknownCommand)
  | .badLength => .next (s.answerFrame p frame .badLength)
  | .command i =>
    match runCommand i s with
    | .next s' => .next ((s'.setBus p .ignoring).clockByte p)
    | o => o

/-- Frame bytes reach a window that is RECEIVING; the bytes after a complete frame are ignored (R167). DESIGN CHOICE (log 31): a
complete frame is judged at its last byte, as R167 says ("When the frame is complete, the window checks it"), at both ports and
however its transaction ends; R174 has a write that a repeated start ends judged at that start. -/
def State.receiveBytes (s : State) (p : Port) (held bytes : List Byte) : Host.Outcome State Fault Refusal :=
  let all := held ++ bytes
  match frameLength all with
  | none => .next (s.setWindow p (.receiving all))
  | some n => if n ≤ all.length then s.judgeFrame p (all.take n) else .next (s.setWindow p (.receiving all))

/-- Bytes of the write transaction in progress. Its first frame byte finds the window EXECUTING, and the transaction is discarded
and marks it (R170), or else begins a frame, discarding a held response (R167, R171). -/
def State.feed (s : State) (p : Port) (bytes : List Byte) : Host.Outcome State Fault Refusal :=
  match (s.port p).bus, (s.port p).window, bytes with
  | .opened, _, [] => .next s
  | .opened, .executing tag _, _ => .next ((s.setBus p .discarding).setWindow p (.executing tag true))
  | .opened, _, _ => (s.setBus p .receiving).receiveBytes p [] bytes
  | .receiving, .receiving held, _ => s.receiveBytes p held bytes
  | _, _, _ => .next s

/-- The transaction goes on driving: what the port drove so far, and 00h for each of `n` further bytes on port A (R173). -/
def State.driveMore (s : State) (p : Port) (before : List Byte) (n : Nat) (taken : Bool) : State :=
  s.drive p (before ++ writeDrive p n) taken

/-- A transaction that opens with byte `b`, with the bytes after it: a request write, a response read of as many bytes, or one
the port does not take (R173, R174). -/
def State.openTransaction (s : State) (p : Port) (b : Byte) (bytes : List Byte) : Host.Outcome State Fault Refusal :=
  if b = s.writeOpening p then
    match ((s.startTransaction p).setBus p .opened).feed p bytes with
    | .next s' => .next (s'.driveMore p [] (bytes.length + 1) true)
    | o => o
  else if b = s.readOpening p then
    let s' := s.beginRead p
    .next (s'.readMore p (s'.port p).window 0 bytes.length)
  else .next (s.foreignTransaction p bytes.length)

/-- The transaction in progress goes on with further bytes, whose clock passes. -/
def State.continueTransaction (s : State) (p : Port) (bytes : List Byte) : Host.Outcome State Fault Refusal :=
  let s1 := s.clockByte p
  match (s.port p).bus with
  | .none => .next s1
  | .reading found sent => .next (s1.readMore p found sent bytes.length)
  | _ =>
    match s1.feed p bytes with
    | .next s' => .next (s'.driveMore p (s.port p).driven bytes.length (s.port p).acknowledged)
    | o => o

/-- REQUEST_FRAME: bytes of a transaction, opened by this command or in progress, or an edge of SCL alone (R167 to R175; log 16,
log 19). -/
def execRequestFrame (p : Port) (opening : Option Byte) (bytes : List Byte) (s : State) :
    Host.Outcome State Fault Refusal :=
  if s.resetAsserted then .next s else
  match opening, bytes with
  | some b, _ => s.openTransaction p b bytes
  | none, [] => .next (s.clockEdge p)
  | none, _ => s.continueTransaction p bytes

/-- RESPONSE_READ: a transaction of `count.bytes` bytes, which ends or is left in progress (R172 to R174; log 20). Where its opening
makes it a request write, the bytes are 00h, since the row gives none. -/
def execResponseRead (p : Port) (opening : Byte) (count : ReadExtent) (s : State) :
    Host.Outcome State Fault Refusal :=
  if s.resetAsserted then .next s else
  match s.openTransaction p opening (List.replicate count.bytes 0) with
  | .next s' => .next (if count.ended then s'.endTransaction p else s')
  | o => o

end Sys2Proof.Machine
end

