-- ==== Sys2Proof/Machine/Interleaving.lean ====
section
/-! DEFINITION. RESUME and PORT RESET, with what comes between their claims (spec/03 R62, R64; spec/10 R184; log 15). -/

namespace Sys2Proof.Machine

/-! ### What comes between claims -/

/-- The claims of the resume work, which the scheduler takes whole (R64). -/
def isResumeClaim : Claim → Bool
  | .retirement _ => false
  | .release => false
  | .expiry _ => true
  | .service _ => true

/-- The commands that R64 keeps out of the resume work: HOLD, SAMPLE, and an ARM that takes an interval expiry at once (R32). -/
def keptOutCommand : Instr → Bool
  | .hold .. => true
  | .sample .. => true
  | .arm _ _ _ delay => decide (delay = 0)
  | _ => false

/-- The command that the frame of port `q` spells with these bytes, if they make it complete (R167). -/
def State.spelled (s : State) (q : Port) (opening : Option Byte) (bytes : List Byte) : Option Instr :=
  let all := match opening, (s.port q).window with
    | none, .receiving held => held ++ bytes
    | _, _ => bytes
  match frameLength all with
  | none => none
  | some n =>
    match decodeFrame q (all.take n) with
    | .command i => some i
    | _ => none

/-- What R64 keeps out of the resume work: an interval expiry, HOLD, SAMPLE and the starts of a fan-out. -/
def State.keptOut (s : State) (q : Port) (e : Interjection) : Bool :=
  match e with
  | .timed (.trgTransition _ _ examined) => decide (examined ≠ 0)
  | .timed (.waitingEdge _ examined) => decide (examined ≠ 0)
  | .timed .intervalExpiry => true
  | .transaction opening bytes => (s.spelled q opening bytes).any keptOutCommand
  | _ => false

/-- The row of a timed event. -/
def runTimed (e : TimedEvent) (s : State) : Host.Outcome State Fault Refusal :=
  match e with
  | .trgTransition l level examined => execTrgTransition l level 0 examined s
  | .waitingEdge l examined => execWaitingEdge l examined s
  | .dinTransition n level => execDinTransition n level 0 s
  | .warmupExpiry c => execWarmupExpiry c s
  | .settleExpiry c => execSettleExpiry c s
  | .conversionCompletion c level => execConversionCompletion c level s
  | .checkCompletion c level => execCheckCompletion c level s
  | .limitExpiry e => execLimitExpiry e s
  | .gateExpiry e => execGateExpiry e s
  | .intervalExpiry => execIntervalExpiry s
  | .becomePastDue i => execBecomePastDue i s
  | .becomeLate i => execBecomeLate i s
  | .stallTimeout => execStallTimeout s

/-- The state after an outcome that lets no time pass; any other leaves `s`. -/
def State.atOnce (s : State) (o : Host.Outcome State Fault Refusal) : State :=
  match o with
  | .next t => if t.now = s.now ∧ t.micro = s.micro then t else s
  | _ => s

/-- An event that comes between the claims of a command of port `p`. -/
def State.takeInterjection (s : State) (p : Port) (e : Interjection) : State :=
  match e with
  | .delivery source => s.takeDelivery source
  | .requestStart c => s.startIdle c
  | .timed e => s.atOnce (runTimed e s)
  | .transaction opening bytes => s.atOnce (execRequestFrame (otherPort p) opening bytes s)
  | .transactionEnd => s.atOnce (execPartialFrameDiscard (otherPort p) s)

/-- An event listed before claim `c` is taken, unless R64 keeps it out. -/
def State.interject (p : Port) (c : Claim) (s : State) (e : Interjection) : State :=
  if isResumeClaim c && s.keptOut (otherPort p) e then s else s.takeInterjection p e

/-- The events that are taken just before claim `c` of a command of port `p`. -/
def beforeClaim (p : Port) (between : List Between) (c : Claim) (s : State) : State :=
  ((between.filter fun b => decide (b.claim = c)).map (·.event)).foldl (State.interject p c) s

/-! ### The two commands -/

/-- RESUME (R62, R64). -/
def execResume (p : Port) (tag : Interleaved) (s : State) : Host.Outcome State Fault Refusal :=
  .next (s.command p tag.tag 0 true (resumeBody p tag.own (beforeClaim p tag.between)))

/-- PORT RESET (R184). -/
def execPortReset (p : Port) (tag : Interleaved) (s : State) : Host.Outcome State Fault Refusal :=
  .next (s.command p tag.tag 0 true (portResetBody p tag.own (beforeClaim p tag.between)))

end Sys2Proof.Machine
end

