-- ==== Sys2Proof/Machine/ResetEvents.lean ====
section
/-! DEFINITION. Power-on reset, assertion of RESET# and the end of RESET# (R19, R20, R46 and the reset rules of every
chapter). -/

namespace Sys2Proof.Machine

/-- POWER_ON_RESET: every block at its power-on values, the pins at the levels given; the queue, the model's own counter and the
level of RESET# stand (log 10). -/
def execPowerOnReset (pins : PinLevels) (s : State) : Host.Outcome State Fault Refusal :=
  .next { State.powerOn pins with resetAsserted := s.resetAsserted, samples := s.samples, pending := s.pending }

/-- An entry at assertion of RESET#: FREE, its generation advanced where it was not (R20). -/
def Entry.afterReset (e : Entry) : Entry where
  state := .free
  generation := if e.state = .free then e.generation else e.generation + 1
  activity := .none
  watch := none

def mapEntries (f : Entry → Entry) (v : Vector Entry 64) : Vector Entry 64 :=
  ⟨⟨v.toList.map f⟩, by simp⟩

/-- The pins as the state has them. -/
def State.pins (s : State) : PinLevels where
  trg0 := s.trg0.raw
  trg1 := s.trg1.raw
  din := ⟨⟨s.dins.toList.map (·.raw)⟩, by simp⟩
  adr := 0

/-- Every block but the correction table at its reset values, and RESET# asserted (R20, R114). -/
def State.inReset (s : State) : State :=
  { State.powerOn s.pins with
    entries := mapEntries Entry.afterReset s.entries
    corrections := s.corrections
    addressB := s.addressB
    resetAsserted := true
    samples := s.samples
    pending := s.pending }

/-- RESET_ASSERTION (R20); a RESET# that is asserted already is not asserted again. -/
def execResetAssertion (s : State) : Host.Outcome State Fault Refusal :=
  .next (if s.resetAsserted then s else s.inReset)

/-- RESET_DEASSERTION: the part leaves RESET#; device time counts from 0, the filtered levels take the pins' levels and port B
latches its address (R46, R79, R120, R174). -/
def execResetDeassertion (pins : PinLevels) (s : State) : Host.Outcome State Fault Refusal :=
  .next (
    if s.resetAsserted then
      { s with
        trg0 := TrgContext.afterReset pins.trg0
        trg1 := TrgContext.afterReset pins.trg1
        dins := dinsAfterReset pins
        addressB := portBAddress pins.adr
        resetAsserted := false }
    else s)

end Sys2Proof.Machine
end

