-- ==== Sys2Proof/Machine/Dispatch.lean ====
section
/-! DEFINITION. Which meaning each command has: one arm for each constructor of `Instr`. -/

namespace Sys2Proof.Machine

def exec (i : Instr) (s : State) : Host.Outcome State Fault Refusal :=
  match i with
  | .identify p tag => Sys2Proof.Machine.execIdentify p tag s
  | .createWatch p tag block => Sys2Proof.Machine.execCreateWatch p tag block s
  | .modifyWatch p tag h block => Sys2Proof.Machine.execModifyWatch p tag h block s
  | .writeBank p tag h bank => Sys2Proof.Machine.execWriteBank p tag h bank s
  | .swapBank p tag h => Sys2Proof.Machine.execSwapBank p tag h s
  | .arm p tag h delay => Sys2Proof.Machine.execArm p tag h delay s
  | .disarm p tag h => Sys2Proof.Machine.execDisarm p tag h s
  | .retire p tag h => Sys2Proof.Machine.execRetire p tag h s
  | .sample p tag h => Sys2Proof.Machine.execSample p tag h s
  | .readWatch p tag h => Sys2Proof.Machine.execReadWatch p tag h s
  | .readValue p tag h => Sys2Proof.Machine.execReadValue p tag h s
  | .listWatches p tag => Sys2Proof.Machine.execListWatches p tag s
  | .fetchAttention p tag => Sys2Proof.Machine.execFetchAttention p tag s
  | .attentionEnable p tag value => Sys2Proof.Machine.execAttentionEnable p tag value s
  | .setCorrection p tag input range gain offset => Sys2Proof.Machine.execSetCorrection p tag input range gain offset s
  | .readCorrection p tag input range => Sys2Proof.Machine.execReadCorrection p tag input range s
  | .setFilter p tag input setting => Sys2Proof.Machine.execSetFilter p tag input setting s
  | .readInputs p tag => Sys2Proof.Machine.execReadInputs p tag s
  | .triggerConfig p tag line mode edge => Sys2Proof.Machine.execTriggerConfig p tag line mode edge s
  | .triggerRearm p tag line => Sys2Proof.Machine.execTriggerRearm p tag line s
  | .hold p tag => Sys2Proof.Machine.execHold p tag s
  | .resume p tag => Sys2Proof.Machine.execResume p tag s
  | .referenceCheck p tag => Sys2Proof.Machine.execReferenceCheck p tag s
  | .readConverters p tag => Sys2Proof.Machine.execReadConverters p tag s
  | .portReset p tag => Sys2Proof.Machine.execPortReset p tag s
  | .requestFrame p opening bytes => Sys2Proof.Machine.execRequestFrame p opening bytes s
  | .partialFrameDiscard p => Sys2Proof.Machine.execPartialFrameDiscard p s
  | .collidingWrite p => Sys2Proof.Machine.execCollidingWrite p s
  | .responseRead p opening count => Sys2Proof.Machine.execResponseRead p opening count s
  | .stallTimeout => Sys2Proof.Machine.execStallTimeout s
  | .powerOnReset pins => Sys2Proof.Machine.execPowerOnReset pins s
  | .resetAssertion => Sys2Proof.Machine.execResetAssertion s
  | .becomePastDue entry => Sys2Proof.Machine.execBecomePastDue entry s
  | .becomeLate entry => Sys2Proof.Machine.execBecomeLate entry s
  | .intervalExpiry => Sys2Proof.Machine.execIntervalExpiry s
  | .trgTransition line level held examined => Sys2Proof.Machine.execTrgTransition line level held examined s
  | .waitingEdge line examined => Sys2Proof.Machine.execWaitingEdge line examined s
  | .warmupExpiry c => Sys2Proof.Machine.execWarmupExpiry c s
  | .requestStart c => Sys2Proof.Machine.execRequestStart c s
  | .settleExpiry c => Sys2Proof.Machine.execSettleExpiry c s
  | .conversionCompletion c level => Sys2Proof.Machine.execConversionCompletion c level s
  | .checkCompletion c level => Sys2Proof.Machine.execCheckCompletion c level s
  | .dinTransition n level held => Sys2Proof.Machine.execDinTransition n level held s
  | .limitExpiry e => Sys2Proof.Machine.execLimitExpiry e s
  | .gateExpiry e => Sys2Proof.Machine.execGateExpiry e s
  | .delivery source => Sys2Proof.Machine.execDelivery source s
  | .resetDeassertion pins => Sys2Proof.Machine.execResetDeassertion pins s

end Sys2Proof.Machine
end

