-- ==== Sys2Proof/Machine/Idle.lean ====
section
/-! DEFINITION. What the part does when no command waits: the next event that is due, or the passing of 1 µs (log 1, log 14). -/

namespace Sys2Proof.Machine

/-- A fan-out in progress goes on, and a waiting edge is taken (R73). -/
def State.lineEvent (s : State) (l : TrgLine) : Option Instr :=
  if (s.line l).fanOut.isSome || (s.line l).waiting then some (.waitingEdge l 128) else none

/-- The delivery that a converter's completion still has to make, the lowest subscriber first (R95). -/
def State.converterDelivery (s : State) (c : ConverterId) : Option Instr :=
  match (s.converter c).current, (s.converter c).delivering with
  | some r, some _ => r.subscribers.head?.map fun i => .delivery (.converter c i)
  | _, _ => none

/-- The delivery that a RESERVED engine has to make (R129). -/
def State.engineDelivery (s : State) (e : EngineIndex) : Option Instr :=
  if (s.engine e).state = .reserved then some (.delivery (.engine e)) else none

/-- The start of an IDLE converter's oldest request (R84). -/
def State.startEvent (s : State) (c : ConverterId) : Option Instr :=
  if (s.converter c).state = .idle ∧ (s.converter c).queue ≠ [] then some (.requestStart c) else none

/-- The transition of a line whose pin has held its level long enough (R69). -/
def State.lineTransition (s : State) (l : TrgLine) : Option Instr :=
  if (s.line l).left = some 0 then some (.trgTransition l (s.line l).raw 0 64) else none

/-- The transition of a DIN input whose pin has held its level long enough (R115). -/
def State.dinTransitionDue (s : State) (n : TimingInput) : Option Instr :=
  if (s.din n).left = some 0 then some (.dinTransition n (s.din n).raw 0) else none

/-- The end of a converter's warm-up, settle or conversion (R83, R85, R93, R99); the level a completion finds is the free
value (log 6). -/
def State.converterEvent (s : State) (c : ConverterId) : Option Instr :=
  if s.converterLeft c = some 0 then
    match (s.converter c).state with
    | .warmup => some (.warmupExpiry c)
    | .idle => none
    | .settling => some (.settleExpiry c)
    | .converting =>
      if (s.converter c).checkCurrent then some (.checkCompletion c (Config.sampledLevel s.samples))
      else some (.conversionCompletion c (Config.sampledLevel s.samples))
  else none

/-- The limit or gate expiry of an engine (R127, R128). -/
def State.engineEvent (s : State) (e : EngineIndex) : Option Instr :=
  if (s.engine e).left = some 0 then
    some (if (s.engine e).state = .gating then .gateExpiry e else .limitExpiry e)
  else none

/-- The interval expiry of the head of the due list (R50). -/
def State.expiryEvent (s : State) : Option Instr :=
  if s.expiryLeft = some 0 then some .intervalExpiry else none

/-- The stall timeout of port B (R175). -/
def State.stallEvent (s : State) : Option Instr := if s.stallLeft = some 0 then some .stallTimeout else none

/-- The change of a due-list member's lateness status (R49). -/
def State.latenessEvent (s : State) (m : DueMember) : Option Instr :=
  if s.pastDueLeft m = some 0 then some (.becomePastDue m.entry)
  else if s.lateLeft m = some 0 then some (.becomeLate m.entry)
  else none

/-- DESIGN CHOICE (log 14). The event that an idle part takes next, where one is due: work done at once first, then what is
timed. -/
def State.nextEvent (s : State) : Option Instr :=
  (s.lineEvent .trg0).or <| (s.lineEvent .trg1).or <|
  (s.converterDelivery .c0).or <| (s.converterDelivery .c1).or <|
  (allEngines.findSome? s.engineDelivery).or <|
  (s.startEvent .c0).or <| (s.startEvent .c1).or <|
  (s.lineTransition .trg0).or <| (s.lineTransition .trg1).or <|
  (allDins.findSome? s.dinTransitionDue).or <|
  (s.converterEvent .c0).or <| (s.converterEvent .c1).or <|
  (allEngines.findSome? s.engineEvent).or <|
  s.expiryEvent.or <| (s.dueList.findSome? s.latenessEvent).or <| s.stallEvent

/-- Each event taken by an idle part moves on to a fresh free value (log 6). -/
def State.nextSample (s : State) : State := { s with samples := s.samples + 1 }

end Sys2Proof.Machine
end

