-- ==== Sys2Proof/Machine/Step.lean ====
section
/-! DEFINITION. One step: the command at the front of the queue, or what the part does when none waits (log 1). -/

namespace Sys2Proof.Machine

/-- DESIGN CHOICE (log 1). The step on an empty queue: nothing while RESET# is asserted, else the next event that is due, else
1 µs passes. -/
def idleStep (s : State) : Host.Outcome State Fault Refusal :=
  if s.resetAsserted then .next s else
  match s.nextEvent with
  | some i => exec i s.nextSample
  | none => .next (s.elapse 1)

def step (s : State) : Host.Outcome State Fault Refusal :=
  match s.pending with
  | [] => idleStep s
  | i :: rest => exec i { s with pending := rest }

/-- The command that a table word spells, put at the front of the queue. The table gives no row any bits, so no word spells one
and nothing changes (log 21). -/
def State.withFetchWord (s : State) (nbits w : Nat) : State :=
  match decodeTableWord nbits w with
  | some i => { s with pending := i :: s.pending }
  | none => s

end Sys2Proof.Machine
end

