-- ==== Sys2Proof/Safety.lean ====
section
/-! DEFINITION. The terms that claims are made in: when a port takes a command, what an answered command leaves, and the
invariants that every step keeps. -/

namespace Sys2Proof.Machine

/-! ### Commands and their answers -/

def CommandWindow.isExecuting : CommandWindow → Bool
  | .executing .. => true
  | _ => false

/-- Port `p` takes a command: RESET# is not asserted and the window is not EXECUTING (R166, R170). -/
def State.accepts (s : State) (p : Port) : Bool := !s.resetAsserted && !(s.port p).window.isExecuting

/-- Command `i` on `s` answers a next state in which port `p` holds the response with that status, no marker, that tag and that
data, and which is `s'` but for port `p` itself. -/
def Answers (i : Instr) (s : State) (p : Port) (tag : Byte) (status : Status) (data : List Byte) (s' : State) : Prop :=
  ∃ t, exec i s = .next t ∧ (t.port p).window = .ready ⟨status, false, tag, data⟩ ∧ t.setPort p (s'.port p) = s'

/-- The port, tag and handle of a command that names a watch (R13). -/
def namesWatch : Instr → Option (Port × Byte × Handle)
  | .modifyWatch p t h _ => some (p, t, h)
  | .writeBank p t h _ => some (p, t, h)
  | .swapBank p t h => some (p, t, h)
  | .arm p t h _ => some (p, t, h)
  | .disarm p t h => some (p, t, h)
  | .retire p t h => some (p, t, h)
  | .sample p t h => some (p, t, h)
  | .readWatch p t h => some (p, t, h)
  | .readValue p t h => some (p, t, h)
  | _ => none

/-- The two commands that a non-owner may send on a SHARED watch (R15). -/
def readsWatch : Instr → Bool
  | .readWatch .. => true
  | .readValue .. => true
  | _ => false

/-- Handle `h` names watch `w` of entry `i`: within range, the entry DEFINED or ARMED, the generations equal (R13). -/
structure State.Names (s : State) (h : Handle) (i : EntryIndex) (w : Watch) : Prop where
  index : h.index.toNat = i.val
  generation : h.generation.toNat = (s.entry i).generation.toNat
  addressable : (s.entry i).addressable = true
  watch : (s.entry i).watch = some w

/-- Port `p` takes a command on its own watch `w` of entry `i`, which handle `h` names (R13, R15, R166). -/
structure State.Commands (s : State) (p : Port) (h : Handle) (i : EntryIndex) (w : Watch) : Prop where
  accepts : s.accepts p = true
  names : s.Names h i w
  owner : w.defn.owner = p

/-- Nothing timed is due sooner than in `n` µs (log 4). -/
def State.NothingSooner (s : State) (n : Nat) : Prop := ∀ k ∈ s.timers, n ≤ k

/-! ### Starts (R54 to R57) -/

/-- `s` with its entry `i` carrying watch `w` in place of the one it carries. -/
def State.withWatchAt (s : State) (i : EntryIndex) (w : Watch) : State :=
  s.setEntry i { s.entry i with watch := some w }

/-- `s` after causes have been raised on watch `w` of entry `i`: those in the notify mask join its owner's member (R152,
R157). -/
def State.afterCauses (s : State) (i : EntryIndex) (w : Watch) (cs : CauseSet) : State :=
  let a := s.attention w.defn.owner
  s.setAttention w.defn.owner
    { a with causes := a.causes.set i (a.causes[i] ||| (cs &&& w.defn.contract.notify)) }

/-- `s` after an overrun of watch `w` of entry `i`: the count advances and stays at 255, and OVERRUN, bit 2, is raised (R57). -/
def State.afterOverrun (s : State) (i : EntryIndex) (w : Watch) : State :=
  (s.withWatchAt i { w with dyn := { w.dyn with overruns := min 255 (w.dyn.overruns + 1) } }).afterCauses i w 0b00100

/-- A start taken by the overrun policy alone (R54, R63): it leaves `t` with disposition `d`. -/
def State.PolicyTaken (s : State) (i : EntryIndex) (w : Watch) (t : State) (d : Disposition) : Prop :=
  (w.defn.contract.policy = .hold ∧ w.dyn.heldTrigger = false →
    t = s.withWatchAt i { w with dyn := { w.dyn with heldTrigger := true } } ∧ d = .heldTrigger) ∧
  (w.defn.contract.policy = .drop ∨ w.dyn.heldTrigger = true → t = s.afterOverrun i w ∧ d = .overrun)

/-- A submission of LEVEL watch `w` of entry `i` to the converter of its input (R55, R87): it leaves `t` with disposition
`d`. -/
def State.SubmissionTaken (s : State) (i : EntryIndex) (w : Watch) (input : AnalogInput) (range : Fin 4) (settle : Nat)
    (t : State) (d : Disposition) : Prop :=
  let c := if input.val < 8 then ConverterId.c0 else ConverterId.c1
  let v := s.converter c
  let same := fun r : Request => r.source = .ain input ∧ r.range = range ∧ r.settle = settle
  (∀ front r back, v.queue = front ++ r :: back → same r → (∀ x ∈ front, ¬ same x) →
    t = (s.setConverter c
      { v with queue := front ++ { r with subscribers := insertIndex i r.subscribers } :: back }).setActivity i .queued ∧
    d = .joined) ∧
  ((∀ x ∈ v.queue, ¬ same x) → v.queue.length < 8 →
    t = (s.setConverter c { v with queue := v.queue ++ [⟨.ain input, range, settle, [i]⟩] }).setActivity i .queued ∧
    d = .started) ∧
  ((∀ x ∈ v.queue, ¬ same x) → 8 ≤ v.queue.length → t = s.afterOverrun i w ∧ d = .overrun)

/-- An engine just assigned to entry `i` (R123): the measurement copied, the expiry in µs, GATING for EDGE_COUNT and
AWAIT_START for the others. -/
def freshEngine (i : EntryIndex) (k : TimingKind) (n : TimingInput) (pol : Polarity) (span : Nat) : Engine :=
  ⟨if k = .edgeCount then .gating else .awaitStart, some i, some ⟨k, n, pol⟩, span * 1000, 0, 0, 0, none⟩

/-- An engine request for the timing watch of entry `i` (R56, R123): it leaves `t`. -/
def State.EngineRequestTaken (s : State) (i : EntryIndex) (k : TimingKind) (n : TimingInput) (pol : Polarity) (span : Nat)
    (t : State) : Prop :=
  (∀ e, (s.engine e).state = .free → (∀ e' < e, (s.engine e').state ≠ .free) →
    t = (s.setEngine e (freshEngine i k n pol span)).setActivity i .measuring) ∧
  ((∀ e, (s.engine e).state ≠ .free) → t = { s with waitList := s.waitList ++ [i] }.setActivity i .awaitingEngine)

/-- A start request for watch `w` of entry `i` while the scheduler is not held (R54 to R56): it leaves `t` with disposition
`d`. -/
def State.StartTaken (s : State) (i : EntryIndex) (w : Watch) (t : State) (d : Disposition) : Prop :=
  ((s.entry i).activity ≠ .none → s.PolicyTaken i w t d) ∧
  ((s.entry i).activity = .none → ∀ input range settle, w.defn.contract.measure = .level input range settle →
    s.SubmissionTaken i w input range settle t d) ∧
  ((s.entry i).activity = .none → ∀ k n pol span, w.defn.contract.measure = .timing k n pol span →
    s.EngineRequestTaken i k n pol span t ∧ d = .started)

/-- Watch `w` of entry `i`, ON_TIME, joins the due list with due time `due` (R48): `t` is `s` with that due time at the entry
and the member in its place, which is behind every member whose due time has been reached (R47) and, among the others, behind those
due earlier or at the same time with a lower index. -/
def State.JoinsDueList (s : State) (i : EntryIndex) (w : Watch) (due : DeviceTime) (t : State) : Prop :=
  let stands := fun (m : DueMember) (d : DeviceTime) =>
    m.lateness ≠ .onTime ∨ (s.now - d).toNat < 2 ^ 31 ∨ (d - s.now).toNat < (due - s.now).toNat ∨
      (d = due ∧ m.entry < i)
  let dueOf := fun m : DueMember => (s.entry m.entry).watch.bind (·.dyn.due)
  ∃ front back, s.dueList = front ++ back ∧
    (∀ m ∈ front, m.entry ≠ i → ∀ d, dueOf m = some d → stands m d) ∧
    (∀ m, back.head? = some m → m.entry ≠ i → ∃ d, dueOf m = some d ∧ ¬ stands m d) ∧
    t = { s.withWatchAt i { w with dyn := { w.dyn with due := some due } } with
          dueList := front ++ ⟨i, .onTime⟩ :: back }

/-- The interval expiry of watch `w` of entry `i`, a member of the due list with lateness status `l` (R50, R51): it re-enters
the list ON_TIME, one interval after its due time or, when LATE, after now with a late overrun; then it is started. It leaves
`t`. -/
def State.ExpiryTaken (s : State) (i : EntryIndex) (w : Watch) (n : Nat) (due : DeviceTime) (l : Lateness) (t : State) : Prop :=
  let next := (if l = .late then s.now else due) + BitVec.ofNat 32 (n * 10)
  let s1 := { s.withWatchAt i { w with dyn := { w.dyn with due := none } } with
    dueList := s.dueList.filter fun m => decide (m.entry ≠ i) }
  let w1 : Watch := { w with dyn := { w.dyn with due := some next } }
  let w2 : Watch := { w1 with dyn := { w1.dyn with overruns := min 255 (w1.dyn.overruns + 1) } }
  ∃ u d, s1.JoinsDueList i w next u ∧
    (l ≠ .late → u.StartTaken i w1 t d) ∧ (l = .late → (u.afterOverrun i w1).StartTaken i w2 t d)

/-! ### The resume work (R64) -/

/-- A delivery or a start of an IDLE converter: what R64 itself names as coming between the claims of the resume work. -/
def isQuiet : Interjection → Bool
  | .delivery _ => true
  | .requestStart _ => true
  | .timed _ => false
  | .transaction _ _ => false
  | .transactionEnd => false

/-- The lateness status that member `m`, with due time `due` and interval `n`, has by now under a hold (R49, R63): PAST_DUE once its
due time has been reached, LATE once one interval more has. -/
def State.statusNow (s : State) (m : DueMember) (due : DeviceTime) (n : Nat) : Lateness :=
  let passed := fun d : DeviceTime => (s.now - d).toNat < 2 ^ 31
  if m.lateness = .late then .late
  else if m.lateness = .onTime ∧ ¬ passed due then .onTime
  else if passed (due + BitVec.ofNat 32 (n * 10)) then .late else .pastDue

/-- `settled` are the members of the due list, each with the status it has by now. -/
def State.Settled (s : State) (settled : List DueMember) : Prop :=
  List.Forall₂ (fun m m' => m'.entry = m.entry ∧ ∀ w n due, (s.entry m.entry).watch = some w →
    w.defn.contract.start = .interval n → w.dyn.due = some due → m'.lateness = s.statusNow m due n) s.dueList settled

/-- Members of the due list expire one after the other (R64 step 1): from `s` they leave `t`. -/
def ExpiriesTaken : List DueMember → State → State → Prop
  | [], s, t => t = s
  | m :: ms, s, t => ∃ w n due u, (s.entry m.entry).state = .armed ∧ (s.entry m.entry).watch = some w ∧
      w.defn.contract.start = .interval n ∧ w.dyn.due = some due ∧ s.ExpiryTaken m.entry w n due m.lateness u ∧
      ExpiriesTaken ms u t

/-- Watch `w` of entry `i` is idle and ARMED, and its held trigger is set. -/
def State.Waits (s : State) (i : EntryIndex) (w : Watch) : Prop :=
  (s.entry i).state = .armed ∧ (s.entry i).watch = some w ∧ w.dyn.heldTrigger = true ∧ (s.entry i).activity = .none

/-- The service of the held trigger of entry `i` (R64 step 2): an idle ARMED watch that has one loses it and is started, and any
other entry is passed over. It leaves `t`. -/
def State.ServiceTaken (s : State) (i : EntryIndex) (t : State) : Prop :=
  (∀ w, s.Waits i w →
    let again : Watch := { w with dyn := { w.dyn with heldTrigger := false } }
    ∃ d, (s.withWatchAt i again).StartTaken i again t d) ∧
  ((∀ w, ¬ s.Waits i w) → t = s)

/-- Entries are serviced one after the other: from `s` they leave `t`. -/
def ServicesTaken : List EntryIndex → State → State → Prop
  | [], s, t => t = s
  | i :: is, s, t => ∃ u, s.ServiceTaken i u ∧ ServicesTaken is u t

/-- The microseconds until device time `t` (R46, R47): none where it has been reached over half the range. -/
def State.waitFor (s : State) (t : DeviceTime) : Nat :=
  if (s.now - t).toNat < 2 ^ 31 then 0 else (t - s.now).toNat * 10 - s.micro.val

/-! ### Converters -/

/-- A free converter takes its oldest waiting request, or is IDLE with none (R83, R84, R95): it leaves `t`. -/
def State.TakesOldest (s : State) (c : ConverterId) (t : State) : Prop :=
  ((s.converter c).queue = [] →
    t = s.setConverter c { s.converter c with state := .idle, current := none, timer := 0, delivering := none }) ∧
  (∀ r rest, (s.converter c).queue = r :: rest →
    t.converter c =
      { s.converter c with
        state := if r.settle = 0 then .converting else .settling
        queue := rest
        current := some r
        timer := if r.settle = 0 then 6 else r.settle * 10
        delivering := none } ∧
    (∀ i ∈ r.subscribers, t.entry i = { s.entry i with activity := .converting }) ∧
    (∀ i, i ∉ r.subscribers → t.entry i = s.entry i) ∧
    { t with entries := s.entries }.setConverter c (s.converter c) = s)

/-! ### Deliveries (R137 to R151) -/

/-- The watch after an outcome has been recorded (R141): a FAULT keeps the value that stood, or 0. -/
def Watch.recorded (w : Watch) (o : Delivered) (now : DeviceTime) : Watch :=
  { w with dyn := { w.dyn with
      outcome := some ⟨o.status, o.value.getD ((w.dyn.outcome.map (·.value)).getD 0), now⟩
      sequence := w.dyn.sequence + 1 } }

/-- A delivery to watch `w` of ARMED entry `i` (R140): steps 1 to 4 are `Watch.deliver`, whose watch and causes the statement
on judging describes; then lifetime (R150) and held trigger (R59). It leaves `t`. -/
def State.ArmedDeliveryTaken (s : State) (i : EntryIndex) (w : Watch) (o : Delivered) (t : State) : Prop :=
  let d := w.deliver o s.now
  let s1 := (s.setEntry i { s.entry i with activity := .none, watch := some d.1 }).afterCauses i w d.2
  let ended : Watch := { d.1 with dyn := { d.1.dyn with due := none, heldTrigger := false } }
  let again : Watch := { d.1 with dyn := { d.1.dyn with heldTrigger := false } }
  (w.defn.contract.lifetime = .once →
    t = { s1.setEntry i { s1.entry i with state := .defined, watch := some ended } with
          dueList := s.dueList.filter fun m => decide (m.entry ≠ i) }) ∧
  (w.defn.contract.lifetime = .standing → (w.dyn.heldTrigger = false ∨ s.isHeld = true) → t = s1) ∧
  (w.defn.contract.lifetime = .standing → w.dyn.heldTrigger = true → s.isHeld = false →
    ∃ disposition, (s1.withWatchAt i again).StartTaken i again t disposition)

/-- A delivery to entry `i` by its state (R95, R137): it leaves `t`. -/
def State.DeliveryTaken (s : State) (i : EntryIndex) (w : Watch) (o : Delivered) (t : State) : Prop :=
  ((s.entry i).state = .retiring → t = s.setEntry i ⟨.free, (s.entry i).generation, .none, none⟩) ∧
  ((s.entry i).state = .defined →
    t = s.setEntry i { s.entry i with activity := .none, watch := some (w.recorded o s.now) }) ∧
  ((s.entry i).state = .armed → s.ArmedDeliveryTaken i w o t)

/-- Engine `e` is released (R130): handed to the head of the wait list, or FREE. It leaves `t`. -/
def State.EngineReleased (s : State) (e : EngineIndex) (t : State) : Prop :=
  (s.waitList = [] → t = s.setEngine e ⟨.free, none, none, 0, 0, 0, 0, none⟩) ∧
  (∀ j rest w k n pol span, s.waitList = j :: rest → (s.entry j).watch = some w →
    w.defn.contract.measure = .timing k n pol span →
    t = ({ s with waitList := rest }.setEngine e (freshEngine j k n pol span)).setActivity j .measuring)

/-! ### Judging (R147) and edges (R116) -/

/-- The table of R147: under condition `c`, value `v` has target class `x` in window `k`. -/
def Targets (c : Condition) (k : Threshold) (v : Int) (x : SignalClass) : Prop :=
  match c with
  | .above =>
    (v < k.low ∧ x = .below) ∨ (k.low ≤ v ∧ v ≤ k.high - k.hysteresis ∧ x = .inside) ∨
      (k.low ≤ v ∧ k.high - k.hysteresis < v ∧ x = .above)
  | .below =>
    (k.high < v ∧ x = .above) ∨ (v ≤ k.high ∧ k.low + k.hysteresis ≤ v ∧ x = .inside) ∨
      (v ≤ k.high ∧ v < k.low + k.hysteresis ∧ x = .below)
  | _ =>
    (k.high < v ∧ x = .above) ∨ (v ≤ k.high ∧ v < k.low ∧ x = .below) ∨ (v ≤ k.high ∧ k.low ≤ v ∧ x = .inside)

/-- What a transition of DIN input `n` to `level` makes of engine `v` (R116, R125, R126, R127, R129): it becomes `v'`. A NORMAL time
is the µs counted, less than the limit (log 2). -/
def EngineSees (n : TimingInput) (level : Level) (v v' : Engine) : Prop :=
  (v.measurement.map (·.input) ≠ some n → v' = v) ∧
  ∀ m, v.measurement = some m → m.input = n →
    let active := level = if m.polarity = .rising then Level.high else Level.low
    let ended : Engine := { v with state := .reserved, outcome := some ⟨.normal, some ((min v.elapsed (v.expiry - 1) : Nat) : Int)⟩ }
    (v.state = .awaitStart → active → v' = { v with state := .timing, elapsed := 0 }) ∧
    (v.state = .awaitStart → ¬ active → v' = v) ∧
    (v.state = .timing → m.kind = .period → active → v' = ended) ∧
    (v.state = .timing → m.kind = .period → ¬ active → v' = v) ∧
    (v.state = .timing → m.kind = .highTime → ¬ active → v' = ended) ∧
    (v.state = .timing → m.kind = .highTime → active → v' = v) ∧
    (v.state = .gating → active → v' = { v with count := min 2147483647 (v.count + 1) }) ∧
    (v.state = .gating → ¬ active → v' = v) ∧
    (v.state = .free ∨ v.state = .reserved → v' = v)

/-! ### Resets -/

/-- What every reset leaves of the blocks, but for the entries' generations and the correction table (R19, R20, R46, R67, R79,
R103, R120, R135, R165, R166). -/
structure State.BlocksReset (t : State) : Prop where
  entries : ∀ i, (t.entry i).state = .free ∧ (t.entry i).activity = .none ∧ (t.entry i).watch = none
  time : t.now = 0 ∧ t.micro = 0
  scheduler : t.dueList = [] ∧ t.holdA = false ∧ t.holdB = false
  lines : ∀ l, (t.line l).mode = .off ∧ (t.line l).edge = .rising ∧ (t.line l).sub = none ∧ (t.line l).count = 0 ∧
    (t.line l).waiting = false ∧ (t.line l).fanOut = none ∧ (t.line l).level = (t.line l).raw
  converters : ∀ c, (t.converter c).state = .warmup ∧ (t.converter c).queue = [] ∧ (t.converter c).current = none ∧
    (t.converter c).fault = false ∧ (t.converter c).delivering = none
  check : t.check = ⟨none, none, none⟩
  filters : ∀ n, (t.din n).setting = .off ∧ (t.din n).level = (t.din n).raw
  engines : ∀ e, (t.engine e).state = .free ∧ (t.engine e).holder = none ∧ (t.engine e).measurement = none
  waitList : t.waitList = []
  attention : ∀ p, (∀ i : EntryIndex, (t.attention p).causes[i] = 0) ∧ (t.attention p).cursor = 0 ∧
    (t.attention p).enable = false ∧ t.attentionLine p = false
  ports : ∀ p, (t.port p).window = .idle ∧ (t.port p).bus = .none

/-! ### Invariants -/

/-- Two waiting requests that R86 forbids beside each other: NORMAL, with the same input, range and settle. -/
def Request.clashes (r r' : Request) : Prop :=
  r.isCheck = false ∧ r.source = r'.source ∧ r.range = r'.range ∧ r.settle = r'.settle

/-- One waiting queue: at most 8 requests, no two of which clash, and every NORMAL one with a subscriber (R86, R87). -/
structure QueueOk (q : List Request) : Prop where
  bounded : q.length ≤ Config.queueCapacity
  distinct : q.Pairwise fun r r' => ¬ r.clashes r'
  subscribed : ∀ r ∈ q, r.isCheck = false → r.subscribers ≠ []

/-- Both waiting queues (R86, R87). -/
def State.QueuesOk (s : State) : Prop := QueueOk s.conv0.queue ∧ QueueOk s.conv1.queue

/-- The engine wait list is non-empty only while no engine is FREE (R122). -/
def State.WaitListOk (s : State) : Prop := s.waitList ≠ [] → ∀ e, (s.engine e).state ≠ .free

/-- A bank: absent, or a window in order and within the limits of the kind (R3, R5). -/
def bankOk (k : Kind) : Option Threshold → Prop
  | none => True
  | some t => t.ordered = true ∧ t.within k.limits = true

/-- A watch in an entry of state `st`: the banks (R3, R5), qualify and the candidate (R6), the overrun count (R57), a pending swap
(R30, R143), the held trigger (R58), the absent active bank (R146), the due time (R48). -/
structure WatchOk (st : EntryState) (w : Watch) : Prop where
  bankA : bankOk w.defn.contract.measure.kind w.defn.bankA
  bankB : bankOk w.defn.contract.measure.kind w.defn.bankB
  qualify : 1 ≤ w.defn.contract.qualify ∧ w.defn.contract.qualify ≤ 16
  candidate : ∀ k, w.dyn.candidate = some k → 1 ≤ k.count ∧ k.count < w.defn.contract.qualify
  overruns : w.dyn.overruns ≤ Config.overrunCeiling
  swap : w.dyn.swapPending = true → st = .armed ∧ w.defn.inactiveBank ≠ none
  held : w.dyn.heldTrigger = true → st = .armed ∧ w.defn.contract.policy = .hold
  unjudged : w.defn.activeBank = none → w.dyn.condition = .unknown ∧ w.dyn.candidate = none
  due : w.dyn.due.isSome = true ↔ st = .armed ∧ ∃ n, w.defn.contract.start = .interval n

/-- The watch table: an entry carries a watch exactly while it is not FREE (R1), and every watch is in order. -/
structure State.TableOk (s : State) : Prop where
  carries : ∀ i, (s.entry i).watch = none ↔ (s.entry i).state = .free
  watches : ∀ i w, (s.entry i).watch = some w → WatchOk (s.entry i).state w

/-- Every member of a port's attention set names a watch in DEFINED or ARMED owned by that port (R156). -/
def State.AttentionOk (s : State) : Prop :=
  ∀ p (i : EntryIndex), (s.attention p).causes[i] ≠ 0 → s.owns p i = true

/-- The due list holds every ARMED watch whose start is INTERVAL, each exactly once, and no other watch (R48). -/
structure State.DueListOk (s : State) : Prop where
  once : (s.dueList.map (·.entry)).Nodup
  exactly : ∀ i, i ∈ s.dueList.map (·.entry) ↔
    (s.entry i).state = .armed ∧ ∃ w n, (s.entry i).watch = some w ∧ w.defn.contract.start = .interval n
  present : ∀ i ∈ s.dueList.map (·.entry), ∃ w, (s.entry i).watch = some w ∧ w.dyn.due.isSome = true

/-- Outside a hold no member of the due list is PAST_DUE or LATE (R49, R64). -/
def State.LatenessOk (s : State) : Prop := s.isHeld = false → ∀ m ∈ s.dueList, m.lateness = .onTime

/-- A trigger line: an edge waits only during a fan-out (R73), a sub-state is held in ONCE alone (R68), and a fan-out in progress
has not examined entry 63 (R73). -/
def State.LinesOk (s : State) : Prop :=
  ∀ l, ((s.line l).waiting = true → (s.line l).fanOut ≠ none) ∧ ((s.line l).sub.isSome = true ↔ (s.line l).mode = .once) ∧
    ∀ k, (s.line l).fanOut = some k → k < 64

/-! ### Letting work go (R34, R90, R131) -/

/-- The subscribers of a waiting request without those of `gone`. -/
def Request.leaving (gone : EntryIndex → Bool) (r : Request) : Request :=
  { r with subscribers := r.subscribers.filter fun i => !gone i }

/-- A waiting request stays unless every subscriber of it leaves, which a request without any (a CHECK request) never does (R90). -/
def Request.stays (gone : EntryIndex → Bool) (r : Request) : Bool :=
  r.subscribers.isEmpty || r.subscribers.any fun i => !gone i

/-- A waiting queue after the watches of `gone` have left it: the requests that lose their last subscriber so are removed, the others
keep their order (R90). -/
def queueWithout (gone : EntryIndex → Bool) (q : List Request) : List Request :=
  (q.filter (Request.stays gone)).map (Request.leaving gone)

/-- `s'` is `s` after the holder of watch `i`'s work has let it go. -/
def State.WorkLetGo (s s' : State) (i : EntryIndex) : Prop :=
  let gone := fun j : EntryIndex => decide (j = i)
  match (s.entry i).activity with
  | .none => s' = s
  | .converting => s' = s
  | .queued =>
    s' = { s with
      conv0 := { s.conv0 with queue := queueWithout gone s.conv0.queue }
      conv1 := { s.conv1 with queue := queueWithout gone s.conv1.queue } }.setActivity i .none
  | .awaitingEngine => s' = { s with waitList := s.waitList.filter fun j => decide (j ≠ i) }.setActivity i .none
  | .measuring =>
    ∀ e, s.engineOf i = some e → ∃ u, s.EngineReleased e u ∧ s' = u.setActivity i .none

/-! ### Where a watch's work stands (R10, R11) -/

def State.waitingPlaces (s : State) (i : EntryIndex) : Nat :=
  (s.conv0.queue ++ s.conv1.queue).countP fun r => decide (i ∈ r.subscribers)

def State.currentPlaces (s : State) (i : EntryIndex) : Nat :=
  (s.conv0.current.toList ++ s.conv1.current.toList).countP fun r => decide (i ∈ r.subscribers)

def State.listPlaces (s : State) (i : EntryIndex) : Nat := s.waitList.count i

def State.enginePlaces (s : State) (i : EntryIndex) : Nat :=
  allEngines.countP fun e => decide ((s.engine e).holder = some i) && decide ((s.engine e).state ≠ .free)

/-- One where `b` holds, else none. -/
def oneIf (b : Bool) : Nat := if b then 1 else 0

/-- The activities that a state permits (R10). -/
def permitted : EntryState → Activity → Bool
  | .free, a => decide (a = .none)
  | .defined, a => decide (a = .none) || decide (a = .converting)
  | .armed, _ => true
  | .retiring, a => decide (a = .converting)

/-- Every watch stands in exactly the place its activity names (R11): a LEVEL watch at the converter that serves its input, on a
request that carries its input, range and settle (R82, R87); with what that takes of the entries (R10), the converters (R81, R82) and
the engines (R121, R129). -/
structure State.PlacesOk (s : State) : Prop where
  waiting : ∀ i, s.waitingPlaces i = oneIf ((s.entry i).activity = .queued)
  current : ∀ i, s.currentPlaces i = oneIf ((s.entry i).activity = .converting)
  list : ∀ i, s.listPlaces i = oneIf ((s.entry i).activity = .awaitingEngine)
  engine : ∀ i, s.enginePlaces i = oneIf ((s.entry i).activity = .measuring)
  states : ∀ i, permitted (s.entry i).state (s.entry i).activity = true
  carries : ∀ i, (s.entry i).watch = none ↔ (s.entry i).state = .free
  timing : ∀ i, (s.entry i).activity = .awaitingEngine ∨ (s.entry i).activity = .measuring →
    ∃ w k n pol span, (s.entry i).watch = some w ∧ w.defn.contract.measure = .timing k n pol span
  level : ∀ i, (s.entry i).activity = .queued ∨ (s.entry i).activity = .converting →
    ∃ w n r d, (s.entry i).watch = some w ∧ w.defn.contract.measure = .level n r d
  served : ∀ i w n r d, (s.entry i).watch = some w → w.defn.contract.measure = .level n r d →
    let v := s.converter (if n.val < 8 then .c0 else .c1)
    let its := fun q : Request => i ∈ q.subscribers ∧ q.source = .ain n ∧ q.range = r ∧ q.settle = d
    ((s.entry i).activity = .queued → ∃ q ∈ v.queue, its q) ∧
    ((s.entry i).activity = .converting → ∃ q, v.current = some q ∧ its q)
  idle : ∀ c, (s.converter c).state = .warmup ∨ (s.converter c).state = .idle → (s.converter c).current = none
  checks : ∀ c, ∀ r ∈ (s.converter c).queue ++ (s.converter c).current.toList, r.isCheck = true → r.subscribers = []
  assigned : ∀ e, (s.engine e).state ≠ .free → (s.engine e).holder.isSome = true ∧ (s.engine e).measurement.isSome = true
  reserved : ∀ e, (s.engine e).state = .reserved → (s.engine e).outcome.isSome = true

end Sys2Proof.Machine
end

