-- ==== Sys2Proof/WellFormed.lean ====
section
/-! DEFINITION. Well-formed commands: the parameters lie within their encodings and ranges (spec/10 R168 step 3, spec/01 R13
step 1), and an event's operands say something the part can do. Every command has a meaning, the ill-formed ones too. -/

namespace Sys2Proof

open Machine

/-- Whether a command's operands lie within their encodings and ranges. -/
def Instr.wellFormed : Instr → Bool
  | .identify .. => true
  | .createWatch _ _ b => (blockCreation b).isSome
  | .modifyWatch _ _ h b => handleInRange h && (blockContract b).isSome
  | .writeBank _ _ h k => handleInRange h && (decodeBank k portLimits).isSome
  | .swapBank _ _ h => handleInRange h
  | .arm _ _ h _ => handleInRange h
  | .disarm _ _ h => handleInRange h
  | .retire _ _ h => handleInRange h
  | .sample _ _ h => handleInRange h
  | .readWatch _ _ h => handleInRange h
  | .readValue _ _ h => handleInRange h
  | .listWatches .. => true
  | .fetchAttention .. => true
  | .attentionEnable _ _ v => (decodeSwitch v).isSome
  | .setCorrection _ _ i r _ o => (decodeCorrectionKey i r).isSome && (decodeOffset o).isSome
  | .readCorrection _ _ i r => (decodeCorrectionKey i r).isSome
  | .setFilter _ _ n f => (decodeTimingInput n).isSome && (decodeFilter f).isSome
  | .readInputs .. => true
  | .triggerConfig _ _ l m e => (decodeTrgLine l).isSome && (decodeTrgMode m).isSome && (decodeTrgEdge e).isSome
  | .triggerRearm _ _ l => (decodeTrgLine l).isSome
  | .hold .. => true
  | .resume .. => true
  | .referenceCheck .. => true
  | .readConverters .. => true
  | .portReset .. => true
  | .requestFrame .. => true
  | .partialFrameDiscard .. => true
  | .collidingWrite .. => true
  | .responseRead .. => true
  | .stallTimeout => true
  | .powerOnReset .. => true
  | .resetAssertion => true
  | .becomePastDue .. => true
  | .becomeLate .. => true
  | .intervalExpiry => true
  | .trgTransition _ _ _ n => decide (n ≤ 64)
  | .waitingEdge _ n => decide (n ≤ 128)
  | .warmupExpiry .. => true
  | .requestStart .. => true
  | .settleExpiry .. => true
  | .conversionCompletion .. => true
  | .checkCompletion .. => true
  | .dinTransition .. => true
  | .limitExpiry .. => true
  | .gateExpiry .. => true
  | .delivery .. => true
  | .resetDeassertion .. => true

end Sys2Proof
end

