-- ==== Sys2Proof/Certificates/Slice0/Obligations.lean ====
section
/-! DEFINITION. The statements for the provers. Each is about every state unless it says otherwise; the terms that are not of
the model itself stand in Safety.lean. "Rest unchanged" is said by giving the whole next state, or by putting the fields that
may change back and asking for equality. -/

open Sys2Proof Sys2Proof.Machine

/-! ### Steps and time -/

/-- A step on a queue that is not empty runs the command at its front with the queue's rest. -/
def Obligations.StepRunsFrontOfQueue : Prop :=
  ∀ (s : State) (c : Instr) (rest : List Instr), s.pending = c :: rest → step s = exec c { s with pending := rest }

/-- R46, R69, R83, R85, R93, R115, R125, R127, R128, R175. `n` µs advance the clock by exactly `n` µs: device time, one unit for
every 10 µs, wraps from 2^32 - 1 to 0. What is timed counts them and nothing else of the part changes: how long a pin has held its
level (counted up to 1000 µs, log 26), the time left of a settle or conversion, an engine's age since assignment and its elapsed
time in TIMING, and port B's stall timer while SCL is low in a transaction in progress. The model counts whole µs (log 2), and an
idle part with no event due lets 1 µs pass (log 1). -/
def Obligations.DeviceTimeCountsTenMicroseconds : Prop :=
  ∀ (s : State) (n : Nat),
    let t := s.elapse n
    let later := fun held : Nat => max held (min 1000 (held + n))
    t.now.toNat * 10 + t.micro.val = (s.now.toNat * 10 + s.micro.val + n) % (2 ^ 32 * 10) ∧
    { t with
      now := s.now, micro := s.micro, trg0 := s.trg0, trg1 := s.trg1, conv0 := s.conv0, conv1 := s.conv1,
      dins := s.dins, engines := s.engines, portB := s.portB } = s ∧
    (∀ l, t.line l = { s.line l with rawHeld := later (s.line l).rawHeld }) ∧
    (∀ d, t.din d = { s.din d with rawHeld := later (s.din d).rawHeld }) ∧
    (∀ c, t.converter c = { s.converter c with timer := (s.converter c).timer - n }) ∧
    (∀ e, let v := s.engine e
      (v.state = .free ∨ v.state = .reserved → t.engine e = v) ∧
      (v.state = .awaitStart ∨ v.state = .gating → t.engine e = { v with age := v.age + n }) ∧
      (v.state = .timing → t.engine e = { v with age := v.age + n, elapsed := v.elapsed + n })) ∧
    (s.portB.bus = .none ∨ s.portB.scl = .high → t.portB = s.portB) ∧
    (s.portB.bus ≠ .none → s.portB.scl = .low → t.portB = { s.portB with stall := s.portB.stall + n }) ∧
    (s.pending = [] → s.resetAsserted = false → s.nextEvent = none → step s = .next (s.elapse 1))

/-! ### Commands that read -/

/-- IDENTIFY (R181, R182) answers the part's numbers, READ CONVERTERS (R102, R178, R181) each converter's report and whether a check
is in progress, all from one moment (log 30); neither changes anything outside the port. -/
def Obligations.IdentifyAndReadConvertersReport : Prop :=
  ∀ (s : State) (p : Port) (tag : Byte), s.accepts p = true →
    Answers (.identify p tag) s p tag .ok [0x0C, 0xC0, 0x01, 64, 2, 8, 4, 16, 8, 2] s ∧
    ∃ data, Answers (.readConverters p tag) s p tag .ok data s ∧ data.length = 13 ∧
      (byteAt data 12 = if s.check.issuer = none then 0 else 1) ∧
      ∀ c k, (c = .c0 ∧ k = 0) ∨ (c = .c1 ∧ k = 6) →
        (byteAt data k = match (s.converter c).state with
          | .warmup => 0 | .idle => 1 | .settling => 2 | .converting => 3) ∧
        byteAt data (k + 1) = BitVec.ofNat 8 (s.converter c).queue.length ∧
        ((s.converter c).current = none → byteAt data (k + 2) = 0 ∧ byteAt data (k + 3) = 0) ∧
        (∀ r n, (s.converter c).current = some r → r.source = .ain n →
          byteAt data (k + 2) = 1 ∧ byteAt data (k + 3) = BitVec.ofNat 8 n.val) ∧
        (∀ r, (s.converter c).current = some r → r.source = .checkSource →
          byteAt data (k + 2) = 2 ∧ byteAt data (k + 3) = 0x10) ∧
        (byteAt data (k + 4) = if (s.converter c).fault = true then 1 else 0) ∧
        ((∃ r ∈ (s.converter c).current.toList ++ (s.converter c).queue, r.isCheck = true) → byteAt data (k + 5) = 1) ∧
        ((∀ r ∈ (s.converter c).current.toList ++ (s.converter c).queue, r.isCheck = false) → byteAt data (k + 5) = 0)

/-- R45 with the layout of R180: the three sets of LIST WATCHES, and nothing changes. -/
def Obligations.ListWatchesReportsThreeSets : Prop :=
  ∀ (s : State) (p : Port) (tag : Byte), s.accepts p = true →
    ∃ data, Answers (.listWatches p tag) s p tag .ok data s ∧ data.length = 24 ∧
      ∀ i : EntryIndex,
        let held := fun q => ∃ w, (s.entry i).watch = some w ∧ w.defn.owner = q ∧
          ((s.entry i).state = .defined ∨ (s.entry i).state = .armed)
        ((byteAt data (i.val / 8)).getLsbD (i.val % 8) = true ↔ held p) ∧
        ((byteAt data (8 + i.val / 8)).getLsbD (i.val % 8) = true ↔ held p ∧ (s.entry i).state = .armed) ∧
        ((byteAt data (16 + i.val / 8)).getLsbD (i.val % 8) = true ↔ held (otherPort p))

/-- READ INPUTS (R78, R119, R178, R181): the filtered levels and settings of the DIN inputs and both lines' reports, all from one
moment (the model's choice: log 30); nothing changes. -/
def Obligations.ReadInputsReportsPinsAndLines : Prop :=
  ∀ (s : State) (p : Port) (tag : Byte), s.accepts p = true →
    ∃ data, Answers (.readInputs p tag) s p tag .ok data s ∧ data.length = 21 ∧
      (∀ n : TimingInput, ((byteAt data 0).getLsbD n.val = true ↔ (s.din n).level = .high) ∧
        byteAt data (1 + n.val) = match (s.din n).setting with | .off => 0 | .us2 => 1 | .us50 => 2 | .ms1 => 3) ∧
      ∀ l k, (l = .trg0 ∧ k = 9) ∨ (l = .trg1 ∧ k = 15) →
        (byteAt data k = match (s.line l).mode with | .off => 0 | .every => 1 | .once => 2) ∧
        (byteAt data (k + 1) = match (s.line l).edge with | .rising => 0 | .falling => 1 | .both => 2) ∧
        (byteAt data (k + 2) = if (s.line l).sub = some .spent then 1 else 0) ∧
        (byteAt data (k + 3) = if (s.line l).level = .high then 1 else 0) ∧
        halfAt data (k + 4) = (s.line l).count

/-- READ WATCH and READ VALUE (R16, R43, R44, R178 to R180) from the owner, or from the other port on a SHARED watch. READ WATCH
answers 46 bytes, of which the definition block reads back as the contract it came from with 0 in the fields that the kind and start
do not have, and changes nothing. READ VALUE answers the 28
bytes of the dynamic part; the owner's read then sets the overrun count to 0, the other port's changes nothing. -/
def Obligations.WatchReadsReportTheEntry : Prop :=
  ∀ (s : State) (p : Port) (tag : Byte) (h : Handle) (i : EntryIndex) (w : Watch),
    s.accepts p = true → s.Names h i w → (w.defn.owner = p ∨ w.defn.contract.share = .shared) →
    let word := fun x : Int => -2 ^ 31 ≤ x ∧ x < 2 ^ 31
    let activity : Byte := match (s.entry i).activity with
      | .none => 0 | .queued => 1 | .converting => 2 | .awaitingEngine => 3 | .measuring => 4
    let reported := fun (data : List Byte) (k : Nat) (bank : Option Threshold) =>
      (bank = none → ∀ j, j < 13 → byteAt data (k + j) = 0) ∧
      (∀ t, bank = some t → word t.low → word t.high → word t.hysteresis →
        byteAt data k = 1 ∧ bankThreshold (bankAt data k) = t)
    (∃ data, Answers (.readWatch p tag h) s p tag .ok data s ∧ data.length = 46 ∧
      (∀ b, blockContract b = some w.defn.contract → blockContract (blockAt data 0) = some w.defn.contract) ∧
      (∀ n r d, w.defn.contract.measure = .level n r d → halfAt data 10 = 0) ∧
      (∀ k n pol span, w.defn.contract.measure = .timing k n pol span → byteAt data 7 = 0) ∧
      ((∀ n, w.defn.contract.start ≠ .interval n) → halfAt data 8 = 0) ∧
      reported data 14 w.defn.bankA ∧ reported data 33 w.defn.bankB ∧
      (byteAt data 28 = if w.defn.owner = .a then 0 else 1) ∧
      (byteAt data 29 = if (s.entry i).state = .armed then 2 else 1) ∧
      byteAt data 30 = activity ∧
      (byteAt data 31 = if w.defn.active = .a then 0 else 1) ∧
      (byteAt data 32 = if w.dyn.swapPending = true then 1 else 0)) ∧
    (∃ data,
      (w.defn.owner = p → Answers (.readValue p tag h) s p tag .ok data
        (s.withWatchAt i { w with dyn := { w.dyn with overruns := 0 } })) ∧
      (w.defn.owner ≠ p → Answers (.readValue p tag h) s p tag .ok data s) ∧
      data.length = 28 ∧
      (∀ o, w.dyn.outcome = some o → byteAt data 0 = 1 ∧
        (byteAt data 1 = match o.status with | .normal => 0 | .clipped => 1 | .stalled => 2 | .fault => 3) ∧
        wordAt data 2 = BitVec.ofInt 32 o.value ∧ wordAt data 6 = o.timestamp) ∧
      (w.dyn.outcome = none → ∀ k, k < 10 → byteAt data k = 0) ∧
      halfAt data 10 = w.dyn.sequence ∧
      (byteAt data 12 = match w.dyn.condition with | .unknown => 0 | .below => 1 | .inside => 2 | .above => 3) ∧
      (∀ k, w.dyn.candidate = some k →
        (byteAt data 13 = match k.proposed with | .below => 1 | .inside => 2 | .above => 3) ∧
        byteAt data 14 = BitVec.ofNat 8 k.count) ∧
      (w.dyn.candidate = none → byteAt data 13 = 0 ∧ byteAt data 14 = 0) ∧
      (byteAt data 15 = if w.dyn.swapPending = true then 1 else 0) ∧
      (byteAt data 16 = if w.dyn.heldTrigger = true then 1 else 0) ∧
      byteAt data 17 = BitVec.ofNat 8 w.dyn.overruns ∧
      (∀ d, w.dyn.due = some d → byteAt data 18 = 1 ∧ wordAt data 19 = d) ∧
      (w.dyn.due = none → ∀ k, k < 5 → byteAt data (18 + k) = 0) ∧
      byteAt data 23 = activity ∧ wordAt data 24 = s.now)

/-! ### Windows and frames -/

/-- R170. Every port command on a port whose window is EXECUTING is discarded: the collision marker is set and nothing but the
port changes. -/
def Obligations.ExecutingWindowDiscardsCommands : Prop :=
  ∀ (i : Instr) (p : Port) (tag code : Byte) (ps : List Byte) (s : State) (t : Byte) (m : Bool),
    commandParts i = some (p, tag, code, ps) → s.resetAsserted = false → (s.port p).window = .executing t m →
    ∃ u, exec i s = .next u ∧ (u.port p).window = .executing t true ∧ u.setPort p (s.port p) = s

/-- R168 step 3 and R13 step 1. Every port command with a parameter outside its encoding or range is answered BAD_PARAMETER,
and nothing but the port changes. -/
def Obligations.IllFormedCommandsAreRefused : Prop :=
  ∀ (i : Instr) (p : Port) (tag code : Byte) (ps : List Byte) (s : State),
    commandParts i = some (p, tag, code, ps) → i.wellFormed = false → s.accepts p = true →
    Answers i s p tag .badParameter [] s

/-- R167, R168, R177, R179. Every port command, with every operand its fields can carry, has the code and the parameter bytes that
R177 and R179 give, and a request frame that is laid out as R167 says and that the port reads as that command (what comes between
the claims of RESUME and PORT RESET is no part of a frame: log 15). -/
def Obligations.FramesReadBackAsTheirCommands : Prop :=
  ∀ (i : Instr) (p : Port) (tag code : Byte) (ps : List Byte), commandParts i = some (p, tag, code, ps) →
    let half := fun x : Half => [x.extractLsb' 8 8, x.extractLsb' 0 8]
    let word := fun x : Word => [x.extractLsb' 24 8, x.extractLsb' 16 8, x.extractLsb' 8 8, x.extractLsb' 0 8]
    let handle := fun h : Handle => [h.index, h.generation]
    let bank := fun b : BankBlock => [b.present] ++ word b.low ++ word b.high ++ word b.hysteresis
    let block := fun b : DefBlock =>
      [b.kind, b.input, b.rangeOrPolarity, b.start, b.lifetime, b.policy, b.share, b.settle] ++ half b.interval ++
        half b.gateOrLimit ++ [b.qualify, b.notify] ++ bank b.bankA ++ [b.reserved]
    (match i with
      | .identify .. => code = 0x01 ∧ ps = []
      | .createWatch _ _ b => code = 0x10 ∧ ps = block b
      | .modifyWatch _ _ h b => code = 0x11 ∧ ps = handle h ++ block b
      | .writeBank _ _ h b => code = 0x12 ∧ ps = handle h ++ bank b
      | .swapBank _ _ h => code = 0x13 ∧ ps = handle h
      | .arm _ _ h d => code = 0x14 ∧ ps = handle h ++ half d
      | .disarm _ _ h => code = 0x15 ∧ ps = handle h
      | .retire _ _ h => code = 0x16 ∧ ps = handle h
      | .sample _ _ h => code = 0x17 ∧ ps = handle h
      | .readWatch _ _ h => code = 0x20 ∧ ps = handle h
      | .readValue _ _ h => code = 0x21 ∧ ps = handle h
      | .listWatches .. => code = 0x22 ∧ ps = []
      | .fetchAttention .. => code = 0x30 ∧ ps = []
      | .attentionEnable _ _ v => code = 0x31 ∧ ps = [v]
      | .setCorrection _ _ n r g o => code = 0x40 ∧ ps = [n, r] ++ half g ++ half o
      | .readCorrection _ _ n r => code = 0x41 ∧ ps = [n, r]
      | .setFilter _ _ n f => code = 0x48 ∧ ps = [n, f]
      | .readInputs .. => code = 0x49 ∧ ps = []
      | .triggerConfig _ _ l m e => code = 0x50 ∧ ps = [l, m, e]
      | .triggerRearm _ _ l => code = 0x51 ∧ ps = [l]
      | .hold .. => code = 0x58 ∧ ps = []
      | .resume .. => code = 0x59 ∧ ps = []
      | .referenceCheck .. => code = 0x60 ∧ ps = []
      | .readConverters .. => code = 0x61 ∧ ps = []
      | .portReset .. => code = 0x7F ∧ ps = []
      | _ => False) ∧
    (∃ check, encodeFrame i = some ([code, tag, BitVec.ofNat 8 ps.length] ++ ps ++ [check]) ∧
      byteSum ([code, tag, BitVec.ofNat 8 ps.length] ++ ps ++ [check]) = 0 ∧
      commandLength code = some ps.length ∧
      decodeFrame p ([code, tag, BitVec.ofNat 8 ps.length] ++ ps ++ [check]) = .command i.asSent) ∧
    i.asSent = match i with
      | .resume p t => .resume p ⟨t.tag, [], []⟩
      | .portReset p t => .portReset p ⟨t.tag, [], []⟩
      | i => i

/-- R167, R171, R173, R174. A request write that carries a command's whole frame does what the command does, a held response
being discarded; bytes after the frame are ignored (a row for any bytes: log 16; nothing comes between the claims of a RESUME or
PORT RESET that a frame spells: log 15; the frame is judged at its last byte, and not at a repeated start that ends the write:
log 31). -/
def Obligations.RequestFrameRunsItsCommand : Prop :=
  ∀ (i : Instr) (p : Port) (tag code : Byte) (ps frame extra : List Byte) (s t : State),
    commandParts i = some (p, tag, code, ps) → encodeFrame i = some frame → s.accepts p = true →
    exec i.asSent s = .next t →
    ∃ u, exec (.requestFrame p (some (s.writeOpening p)) (frame ++ extra)) s = .next u ∧
      (u.port p).window = (t.port p).window ∧ u.setPort p (t.port p) = t

/-- R167 and R168 steps 1 and 2. A complete frame with a wrong sum or a length byte over 40 is answered FRAME_ERROR, one with an
unlisted code UNKNOWN_COMMAND, one of another length than its code's BAD_LENGTH, each with the frame's byte 1 as tag; nothing
but the port changes (judged at the frame's last byte: the model's choice, log 31). -/
def Obligations.BadFramesAreAnsweredAtThePort : Prop :=
  ∀ (s : State) (p : Port) (frame : List Byte) (status : Status),
    let broken := byteSum frame ≠ 0 ∨ 40 < (byteAt frame 2).toNat
    let code := byteAt frame 0
    s.accepts p = true → frameLength frame = some frame.length →
    (broken ∧ status = .frameError) ∨
      (¬ broken ∧ commandLength code = none ∧ status = .unknownCommand) ∨
      (¬ broken ∧ (∃ n, commandLength code = some n ∧ (byteAt frame 2).toNat ≠ n) ∧ status = .badLength) →
    ∃ t, exec (.requestFrame p (some (s.writeOpening p)) frame) s = .next t ∧
      (t.port p).window = .ready ⟨status, false, byteAt frame 1, []⟩ ∧ t.setPort p (s.port p) = s

/-- R167, R175. Frame bytes that come in pieces are received as one frame. A transaction that ends before its frame is complete,
by its own end or, on port B, by the stall timeout after SCL has stayed low for 25 ms, leaves the window IDLE and nothing else
changed but the time that has passed. SCL rests low after a byte (the model's choice: log 19); an edge of SCL alone (log 16) makes
it high, which restarts the stall timer, and while SCL is high it does not count and the transaction is not abandoned; the next
edge makes it low again. Nothing else timed may be due sooner than the timeout (log 4). -/
def Obligations.FramesArriveInPieces : Prop :=
  ∀ (s : State) (p : Port) (bytes : List Byte),
    s.accepts p = true → bytes ≠ [] → (∀ n, frameLength bytes = some n → bytes.length < n) →
    ∃ t, exec (.requestFrame p (some (s.writeOpening p)) bytes) s = .next t ∧
      (t.port p).window = .receiving bytes ∧ t.setPort p (s.port p) = s ∧
      (∀ more, more ≠ [] → exec (.requestFrame p none more) t =
        exec (.requestFrame p (some (s.writeOpening p)) (bytes ++ more)) s) ∧
      (∃ u, exec (.partialFrameDiscard p) t = .next u ∧ (u.port p).window = .idle ∧ u.setPort p (s.port p) = s) ∧
      (p = .a → exec (.requestFrame p none []) t = .next t) ∧
      (p = .b → ∀ k,
        let late := t.elapse k
        let high := late.setPort .b { late.port .b with scl := .high, stall := 0 }
        exec (.requestFrame .b none []) late = .next high ∧
        (∀ n, (high.elapse n).port .b = high.port .b ∧ exec .stallTimeout (high.elapse n) = .next (high.elapse n)) ∧
        exec (.requestFrame .b none []) high = .next (high.setPort .b { high.port .b with scl := .low })) ∧
      (p = .b → t.NothingSooner 25000 → ∃ u, exec .stallTimeout t = .next u ∧ (u.port .b).window = .idle ∧
        (u.port .b).bus = .none ∧ u.setPort .b (s.port .b) = (s.elapse 25000).setPort .b (s.port .b))

/-- R170. A write transaction that begins on an EXECUTING window marks it, and all its bytes are discarded, whatever they
are. -/
def Obligations.CollidingWriteMarksTheWindow : Prop :=
  ∀ (s : State) (p : Port) (tag : Byte) (m : Bool),
    s.resetAsserted = false → (s.port p).window = .executing tag m →
    (∃ t, exec (.collidingWrite p) s = .next t ∧ (t.port p).window = .executing tag true ∧
      t.setPort p (s.port p) = s ∧
      ∀ bytes, ∃ u, exec (.requestFrame p none bytes) t = .next u ∧ (u.port p).window = .executing tag true ∧
        u.setPort p (s.port p) = s) ∧
    (∀ bytes, bytes ≠ [] → ∃ t, exec (.requestFrame p (some (s.writeOpening p)) bytes) s = .next t ∧
      (t.port p).window = .executing tag true ∧ t.setPort p (s.port p) = s)

/-- R169, R172 to R176. A read takes the response from its byte 0 and then 00h; it finds 01h on an EXECUTING window and 02h on an
IDLE one; SDO of port A carries 00h before them. It may go on in pieces. Its end consumes a READY response whose last byte was
transmitted; any other window stands, and nothing but the port changes. A new transaction ends the one before. A read that port B
abandons after 25 ms leaves a READY response READY, whatever was transmitted (R175's words; the model's choice where all of it
was: log 28; that SCL rests low after a byte, so that the 25 ms run with no edge sent: log 19; nothing else timed may be due
sooner: log 4). Reads in pieces, one event of `count` bytes: log 16, log 20; what the
port drove: log 25. A response frame is status (its value by R176, 80h added for the marker), tag, data length, data and the byte
that makes the sum 0. -/
def Obligations.ResponseReadsFollowTheWindow : Prop :=
  (∀ (s : State) (p : Port) (bytes : List Byte), s.resetAsserted = false →
    let w := (s.port p).window
    let drove := fun (t : State) (bs : List Byte) => (t.port p).driven = (if p = .a then [0] else []) ++ bs
    (∀ found sent, (s.port p).bus ≠ .reading found sent) → (∀ held, w ≠ .receiving held) →
    ∃ t u, exec (.requestFrame p (some (s.readOpening p)) bytes) s = .next t ∧
      exec (.responseRead p (s.readOpening p) ⟨bytes.length, false⟩) s = .next t ∧
      t.setPort p (s.port p) = s ∧ (t.port p).window = w ∧
      (∀ r, w = .ready r → drove t ((r.frame ++ List.replicate bytes.length 0).take bytes.length)) ∧
      (∀ tag m, w = .executing tag m → drove t (List.replicate bytes.length 1)) ∧
      (w = .idle → drove t (List.replicate bytes.length 2)) ∧
      (∀ more, more ≠ [] → exec (.requestFrame p none more) t =
        exec (.requestFrame p (some (s.readOpening p)) (bytes ++ more)) s) ∧
      exec (.partialFrameDiscard p) t = .next u ∧
      exec (.responseRead p (s.readOpening p) ⟨bytes.length, true⟩) s = .next u ∧
      u.setPort p (s.port p) = s ∧ (u.port p).driven = (t.port p).driven ∧ (u.port p).bus = .none ∧
      (∀ r, w = .ready r → (u.port p).window = if r.frame.length ≤ bytes.length then .idle else .ready r) ∧
      ((∀ r, w ≠ .ready r) → (u.port p).window = w) ∧
      (p = .b → t.NothingSooner 25000 → ∃ v, exec .stallTimeout t = .next v ∧ (v.port .b).window = w ∧
        (v.port .b).bus = .none ∧ v.setPort .b (s.port .b) = (s.elapse 25000).setPort .b (s.port .b))) ∧
  (∀ (s u : State) (p : Port) (opening : Byte) (bytes : List Byte), exec (.partialFrameDiscard p) s = .next u →
    exec (.requestFrame p (some opening) bytes) s = exec (.requestFrame p (some opening) bytes) u) ∧
  (∀ r : Response, r.data.length < 256 →
    let status : Byte := match r.status with
      | .ok => 0x00 | .frameError => 0x10 | .unknownCommand => 0x11 | .badLength => 0x12 | .badParameter => 0x13
      | .badHandle => 0x20 | .staleHandle => 0x21 | .notOwner => 0x22 | .badState => 0x23 | .tableFull => 0x24
      | .held => 0x25 | .queueFull => 0x26 | .inputBusy => 0x27 | .checkBusy => 0x28 | .empty => 0x29
    r.frame.length = 4 + r.data.length ∧ byteSum r.frame = 0 ∧
    byteAt r.frame 0 = status + (if r.marker = true then 0x80 else 0) ∧ byteAt r.frame 1 = r.tag ∧
    (byteAt r.frame 2).toNat = r.data.length ∧ (r.frame.drop 3).take r.data.length = r.data)

/-- R173, R174. A transaction that opens with a byte the port does not take has no effect on a window: port A drives 00h, port B
does not acknowledge, and the bytes that follow go nowhere (what a port drove and acknowledged: log 25). A RESPONSE_READ whose
opening is the port's request write is that write, of bytes that are 00h (log 20). -/
def Obligations.ForeignTransactionsHaveNoEffect : Prop :=
  (∀ (s : State) (p : Port) (opening : Byte) (bytes : List Byte),
    s.resetAsserted = false → opening ≠ s.readOpening p → opening ≠ s.writeOpening p →
    (∀ held, (s.port p).window ≠ .receiving held) → (∀ found sent, (s.port p).bus ≠ .reading found sent) →
    ∃ t u, exec (.responseRead p opening ⟨bytes.length, false⟩) s = .next t ∧
      exec (.requestFrame p (some opening) bytes) s = .next t ∧
      exec (.responseRead p opening ⟨bytes.length, true⟩) s = .next u ∧
      (∀ v ∈ [t, u], (v.port p).window = (s.port p).window ∧ v.setPort p (s.port p) = s ∧
        (v.port p).acknowledged = false ∧
        ((v.port p).driven = if p = .a then List.replicate (bytes.length + 1) 0 else [])) ∧
      ∀ more, ∃ v, exec (.requestFrame p none more) t = .next v ∧ (v.port p).window = (s.port p).window ∧
        v.setPort p (s.port p) = s ∧ (v.port p).acknowledged = false) ∧
  (∀ (s : State) (p : Port) (count : Nat), s.resetAsserted = false →
    ∃ t u, exec (.requestFrame p (some (s.writeOpening p)) (List.replicate count 0)) s = .next t ∧
      exec (.responseRead p (s.writeOpening p) ⟨count, false⟩) s = .next t ∧
      exec (.partialFrameDiscard p) t = .next u ∧ exec (.responseRead p (s.writeOpening p) ⟨count, true⟩) s = .next u ∧
      (t.port p).acknowledged = true)

/-! ### Resets -/

/-- PORT RESET (R41, R66, R164, R184; its retirements in ascending index: log 13): port p owns no watch any more, its attention
context is reset and its claim is clear, whatever deliveries and starts come between its claims and whatever the port does before
the answer, which carries the marker if the port wrote; it completes whatever else comes between (log 15). With nothing between:
its watches leave the due list, the waiting queues and the wait list, each as RETIRE would have it, and a watch to which an
engine's completion is on its way takes it first (log 12); engines that they held go to the watches that still wait, in order; the
other port's watches, their work and their attention, and all that belongs to neither port, stand. Where p's was the last claim,
the resume work of R64 follows (its terms stand in Safety.lean) on the lateness statuses that the members have by now (log 29).
That a watch stands in the one place its activity names is PlacesInvariantIsKept. -/
def Obligations.PortResetRetiresThePortsWatches : Prop :=
  ∀ (s : State) (p : Port) (tag : Byte), s.accepts p = true →
    let back := fun u : State =>
      { u with entries := s.entries, dueList := s.dueList, conv0 := s.conv0, conv1 := s.conv1, engines := s.engines
               waitList := s.waitList }.setPort p (s.port p)
    (∀ between own, ∃ t, exec (.portReset p ⟨tag, between, own⟩) s = .next t) ∧
    (∀ between own, (∀ b ∈ between, isQuiet b.event = true) → ∃ t, exec (.portReset p ⟨tag, between, own⟩) s = .next t ∧
      (t.port p).window = .ready ⟨.ok, decide (OwnTransaction.write ∈ own), tag, []⟩ ∧
      t.port (otherPort p) = s.port (otherPort p) ∧ (∀ i, t.owns p i = false) ∧
      (∀ i, s.owns p i = true → (t.entry i).generation = (s.entry i).generation + 1) ∧
      (∀ i : EntryIndex, (t.attention p).causes[i] = 0) ∧ (t.attention p).cursor = 0 ∧ (t.attention p).enable = false ∧
      t.attentionLine p = false ∧ t.hold p = false ∧ t.hold (otherPort p) = s.hold (otherPort p) ∧
      t.now = s.now ∧ t.micro = s.micro ∧ t.corrections = s.corrections ∧ t.dins = s.dins ∧ t.trg0 = s.trg0 ∧
      t.trg1 = s.trg1 ∧ t.check = s.check ∧ t.conv0.fault = s.conv0.fault ∧ t.conv1.fault = s.conv1.fault) ∧
    ∀ own, ∃ u t, exec (.portReset p ⟨tag, [], own⟩) s = .next t ∧
      ((back u).setAttention p (s.attention p)).setHold p (s.hold p) = s ∧
      (∀ i, s.owns p i = true → s.reservedFor i = none →
        ((s.entry i).activity = .converting → i ∉ s.waitList →
          (u.entry i).state = .retiring ∧ (u.entry i).activity = .converting) ∧
        ((s.entry i).activity ≠ .converting → u.entry i = ⟨.free, (s.entry i).generation + 1, .none, none⟩)) ∧
      u.dueList = s.dueList.filter (fun m => !s.owns p m.entry) ∧
      (∀ c, { u.converter c with queue := (s.converter c).queue } = s.converter c) ∧
      (∀ e, (s.engine e).state ≠ .free → (∀ i, (s.engine e).holder = some i → s.owns p i = false) →
        u.engine e = s.engine e) ∧
      (∀ i, s.owns p i = false → u.entry i = s.entry i ∨
        i ∈ s.waitList ∧ u.entry i = { s.entry i with activity := .measuring }) ∧
      (s.PlacesOk →
        (∀ i, s.owns p i = true → s.reservedFor i ≠ none → u.entry i = ⟨.free, (s.entry i).generation + 1, .none, none⟩) ∧
        (∀ c, (u.converter c).queue = queueWithout (s.owns p) (s.converter c).queue) ∧
        ∃ n,
          let others := s.waitList.filter fun i => !s.owns p i
          u.waitList = others.drop n ∧
          (∀ i, s.owns p i = false → i ∉ others.take n → u.entry i = s.entry i) ∧
          ∀ i ∈ others.take n, u.entry i = { s.entry i with activity := .measuring } ∧
            ∃ e w k m pol span, (s.entry i).watch = some w ∧ w.defn.contract.measure = .timing k m pol span ∧
              u.engine e = freshEngine i k m pol span) ∧
      (s.hold p = false ∨ s.hold (otherPort p) = true → t = u) ∧
      (s.hold p = true → s.hold (otherPort p) = false → s.DueListOk →
        ∃ settled v, u.Settled settled ∧
          ExpiriesTaken (settled.filter fun m => decide (m.lateness ≠ .onTime)) { u with dueList := settled } v ∧
          ServicesTaken allEntries v t)

/-- Power-on reset (R19, R113 and the reset rules of every chapter): every block at its reset values, generations 0, every
correction the identity entry, the filtered levels and port B's address taken from the pins. That the model's queue of commands
outlives it is the model's choice (log 10). -/
def Obligations.PowerOnResetGivesEveryResetValue : Prop :=
  ∀ (s : State) (pins : PinLevels),
    ∃ t, exec (.powerOnReset pins) s = .next t ∧ t.BlocksReset ∧
      (∀ i, (t.entry i).generation = 0) ∧ (∀ n r, t.correction n r = ⟨32768, 0⟩) ∧
      (t.line .trg0).level = pins.trg0 ∧ (t.line .trg1).level = pins.trg1 ∧
      (∀ n : TimingInput, (t.din n).level = pins.din[n]) ∧
      t.addressB.toNat = 0x58 + pins.adr.toNat ∧ t.pending = s.pending

/-- Assertion of RESET# (R20, R46, R67, R79, R103, R114, R120, R135, R165, R166): every block but the correction table at its
reset values, and the generation of every entry that was not FREE advanced by one. At its end the filtered levels and port B's
address are taken from the pins. That the end is a command of its own is log 9's choice. -/
def Obligations.ResetLineResetsAllButTheCorrections : Prop :=
  ∀ s : State,
    (s.resetAsserted = false →
      ∃ t, exec .resetAssertion s = .next t ∧ t.BlocksReset ∧ t.corrections = s.corrections ∧
        (∀ i, (s.entry i).state = .free → (t.entry i).generation = (s.entry i).generation) ∧
        (∀ i, (s.entry i).state ≠ .free → (t.entry i).generation = (s.entry i).generation + 1) ∧
        t.resetAsserted = true ∧ t.pending = s.pending) ∧
    (∀ pins : PinLevels, s.resetAsserted = true →
      ∃ t, exec (.resetDeassertion pins) s = .next t ∧ t.resetAsserted = false ∧
        (t.line .trg0).level = pins.trg0 ∧ (t.line .trg0).raw = pins.trg0 ∧
        (t.line .trg1).level = pins.trg1 ∧ (t.line .trg1).raw = pins.trg1 ∧
        (∀ n : TimingInput, (t.din n).level = pins.din[n] ∧ (t.din n).raw = pins.din[n]) ∧
        t.addressB.toNat = 0x58 + pins.adr.toNat ∧
        { t with trg0 := s.trg0, trg1 := s.trg1, dins := s.dins, addressB := s.addressB, resetAsserted := true } = s)

/-- The model's choice (log 9, DEDUCED): while RESET# is asserted no command but the two that concern resets changes anything. -/
def Obligations.NothingHappensWhileResetIsAsserted : Prop :=
  ∀ (i : Instr) (s : State), s.resetAsserted = true → (∀ pins, i ≠ .powerOnReset pins) → (∀ pins, i ≠ .resetDeassertion pins) →
    exec i s = .next s

/-! ### Handles and owners -/

/-- R13. The handle checks of every command that names a watch, in their order; a refused command changes nothing outside the
port. -/
def Obligations.HandleChecksAreMadeInOrder : Prop :=
  ∀ (c : Instr) (p : Port) (tag : Byte) (h : Handle) (s : State),
    namesWatch c = some (p, tag, h) → s.accepts p = true →
    (64 ≤ h.index.toNat ∨ 16 ≤ h.generation.toNat → Answers c s p tag .badParameter [] s) ∧
    ∀ i : EntryIndex, h.index.toNat = i.val → h.generation.toNat < 16 → c.wellFormed = true →
      ((s.entry i).state = .free → Answers c s p tag .badHandle [] s) ∧
      ((s.entry i).state = .retiring → Answers c s p tag .staleHandle [] s) ∧
      ((s.entry i).state ≠ .free → (s.entry i).state ≠ .retiring →
        (s.entry i).generation.toNat ≠ h.generation.toNat → Answers c s p tag .staleHandle [] s)

/-- R15. Every command of the port that does not own the named watch is answered NOT_OWNER, but for the two reads of a SHARED
watch; nothing outside the port changes. -/
def Obligations.NonOwnersAreRefused : Prop :=
  ∀ (c : Instr) (p : Port) (tag : Byte) (h : Handle) (s : State) (i : EntryIndex) (w : Watch),
    namesWatch c = some (p, tag, h) → c.wellFormed = true → s.accepts p = true → s.Names h i w → w.defn.owner ≠ p →
    (readsWatch c = false ∨ w.defn.contract.share = .closed) →
    Answers c s p tag .notOwner [] s

/-! ### Watches -/

/-- R17. CREATE WATCH takes the lowest-numbered FREE entry, whose generation it keeps, and fills it as R6 and R17 say; with no
FREE entry it is answered TABLE_FULL and nothing changes. -/
def Obligations.CreateWatchTakesTheLowestFreeEntry : Prop :=
  ∀ (s : State) (p : Port) (tag : Byte) (block : DefBlock) (c : Contract) (bankA : Option Threshold),
    s.accepts p = true → blockCreation block = some (c, bankA) →
    (∀ i, (s.entry i).state = .free → (∀ j < i, (s.entry j).state ≠ .free) →
      Answers (.createWatch p tag block) s p tag .ok
        [BitVec.ofNat 8 i.val, (s.entry i).generation.setWidth 8]
        (s.setEntry i ⟨.defined, (s.entry i).generation, .none,
          some ⟨⟨c, p, bankA, none, .a⟩, ⟨none, 0, .unknown, none, false, false, 0, none⟩⟩⟩)) ∧
    ((∀ i, (s.entry i).state ≠ .free) → Answers (.createWatch p tag block) s p tag .tableFull [] s)

/-- R2, R3, R4 with the encodings of R178 and R179. Which definition blocks are valid and the contract each gives, the fields of
other kinds and starts ignored; which bank contents are valid within limits and the bank each gives; the limits of each kind. -/
def Obligations.DefinitionTestReadsTheBlock : Prop :=
  (∀ b : DefBlock,
    (blockContract b).isSome = true ↔
      b.kind.toNat < 4 ∧
      (b.kind = 0 → b.input.toNat < 16 ∧ b.rangeOrPolarity.toNat < 4) ∧
      (b.kind ≠ 0 → b.input.toNat < 8 ∧ b.rangeOrPolarity.toNat < 2 ∧ 1 ≤ b.gateOrLimit.toNat) ∧
      (b.kind = 1 ∨ b.kind = 2 → b.gateOrLimit.toNat ≤ 60000) ∧
      b.start.toNat < 4 ∧ (b.start = 0 → 1 ≤ b.interval.toNat) ∧
      b.lifetime.toNat < 2 ∧ b.policy.toNat < 2 ∧ b.share.toNat < 2 ∧
      1 ≤ b.qualify.toNat ∧ b.qualify.toNat ≤ 16 ∧ b.notify.toNat < 32 ∧ b.reserved = 0) ∧
  (∀ (b : DefBlock) (c : Contract), blockContract b = some c →
    (b.kind = 0 → ∃ n r, c.measure = .level n r b.settle.toNat ∧ n.val = b.input.toNat ∧
      r.val = b.rangeOrPolarity.toNat) ∧
    (b.kind ≠ 0 → ∃ k n pol, c.measure = .timing k n pol b.gateOrLimit.toNat ∧
      (k = if b.kind = 1 then .period else if b.kind = 2 then .highTime else .edgeCount) ∧
      n.val = b.input.toNat ∧ (pol = if b.rangeOrPolarity = 0 then .rising else .falling)) ∧
    (b.start = 0 → c.start = .interval b.interval.toNat) ∧
    (b.start = 1 → c.start = .trg .trg0) ∧ (b.start = 2 → c.start = .trg .trg1) ∧ (b.start = 3 → c.start = .command) ∧
    (c.lifetime = if b.lifetime = 0 then .standing else .once) ∧ (c.policy = if b.policy = 0 then .hold else .drop) ∧
    (c.share = if b.share = 0 then .closed else .shared) ∧
    c.qualify = b.qualify.toNat ∧ c.notify = b.notify.setWidth 5) ∧
  (∀ (b : DefBlock) (c : Contract) (k : Option Threshold),
    blockCreation b = some (c, k) ↔ blockContract b = some c ∧ decodeBank b.bankA c.measure.kind.limits = some k) ∧
  (∀ (x : BankBlock) (lo hi : Int),
    (decodeBank x (lo, hi) = some none ↔ x.present = 0) ∧
    ∀ t : Threshold, decodeBank x (lo, hi) = some (some t) ↔
      x.present = 1 ∧ t = ⟨x.low.toInt, x.high.toInt, x.hysteresis.toInt⟩ ∧
      t.low < t.high ∧ 0 ≤ t.hysteresis ∧ t.hysteresis ≤ t.high - t.low ∧
      lo ≤ t.low ∧ t.high ≤ hi ∧ lo ≤ t.hysteresis ∧ t.hysteresis ≤ hi) ∧
  Kind.level.limits = (-2048, 4095) ∧
  ∀ k ∈ [Kind.period, Kind.highTime, Kind.edgeCount], k.limits = (0, 2147483647)

/-- MODIFY WATCH (R5, R23 to R26, R49, R52). In DEFINED the contract is replaced and a changed qualify clears the candidate;
BAD_STATE while a conversion is current, BAD_PARAMETER where a bank would not fit the new kind. (In DEFINED the held trigger is
clear: R58, TableInvariantIsKept.) In ARMED only notify mask, qualify, interval, lifetime and overrun policy may differ, else
BAD_STATE; a changed qualify clears the candidate, DROP clears the held trigger, the due time stands, and a PAST_DUE member that
the new interval makes late is LATE at once. -/
def Obligations.ModifyWatchChangesTheDefinition : Prop :=
  ∀ (s : State) (p : Port) (tag : Byte) (h : Handle) (block : DefBlock) (c : Contract) (i : EntryIndex) (w : Watch),
    s.Commands p h i w → blockContract block = some c →
    let old := w.defn.contract
    let candidate := if c.qualify = old.qualify then w.dyn.candidate else none
    ((s.entry i).state = .defined → w.dyn.heldTrigger = false →
      let fits := ∀ k t, w.defn.bank k = some t → t.within c.measure.kind.limits = true
      ((s.entry i).activity ≠ .none → Answers (.modifyWatch p tag h block) s p tag .badState [] s) ∧
      ((s.entry i).activity = .none → fits → Answers (.modifyWatch p tag h block) s p tag .ok []
        (s.withWatchAt i
          { defn := { w.defn with contract := c }, dyn := { w.dyn with candidate := candidate } })) ∧
      ((s.entry i).activity = .none → ¬ fits → Answers (.modifyWatch p tag h block) s p tag .badParameter [] s)) ∧
    ((s.entry i).state = .armed →
      let permitted := c.measure = old.measure ∧ c.share = old.share ∧
        (c.start = old.start ∨ ∃ m n, old.start = .interval m ∧ c.start = .interval n)
      let w' : Watch :=
        { defn := { w.defn with contract := c }
          dyn := { w.dyn with
            candidate := candidate
            heldTrigger := if c.policy = .drop then false else w.dyn.heldTrigger } }
      let late := s.lateness i = some .pastDue ∧ ∃ n d, c.start = .interval n ∧ w.dyn.due = some d ∧
        (s.now - (d + BitVec.ofNat 32 (n * 10))).toNat < 2 ^ 31
      (¬ permitted → Answers (.modifyWatch p tag h block) s p tag .badState [] s) ∧
      (permitted → ¬ late → Answers (.modifyWatch p tag h block) s p tag .ok [] (s.withWatchAt i w')) ∧
      (permitted → late → Answers (.modifyWatch p tag h block) s p tag .ok []
        { s.withWatchAt i w' with
          dueList := s.dueList.map fun m => if m.entry = i then { m with lateness := .late } else m }))

/-- WRITE BANK (R27, R28): BAD_STATE while a swap is pending; BAD_PARAMETER where the window does not fit the kind; else the
inactive bank becomes what was sent and nothing else changes. -/
def Obligations.WriteBankWritesTheInactiveBank : Prop :=
  ∀ (s : State) (p : Port) (tag : Byte) (h : Handle) (bank : BankBlock) (k : Option Threshold) (i : EntryIndex) (w : Watch),
    s.Commands p h i w → decodeBank bank (-2048, 2147483647) = some k →
    let fits := ∀ t, k = some t → t.within w.defn.contract.measure.kind.limits = true
    (w.dyn.swapPending = true → Answers (.writeBank p tag h bank) s p tag .badState [] s) ∧
    (w.dyn.swapPending = false → ¬ fits → Answers (.writeBank p tag h bank) s p tag .badParameter [] s) ∧
    (w.dyn.swapPending = false → fits → w.defn.active = .a →
      Answers (.writeBank p tag h bank) s p tag .ok [] (s.withWatchAt i { w with defn := { w.defn with bankB := k } })) ∧
    (w.dyn.swapPending = false → fits → w.defn.active = .b →
      Answers (.writeBank p tag h bank) s p tag .ok [] (s.withWatchAt i { w with defn := { w.defn with bankA := k } }))

/-- SWAP BANK (R29): BAD_STATE where the inactive bank is absent or a swap is pending; in DEFINED, whatever the activity, the
banks toggle at once and the candidate is cleared; in ARMED the swap is pending. -/
def Obligations.SwapBankTogglesOrPends : Prop :=
  ∀ (s : State) (p : Port) (tag : Byte) (h : Handle) (i : EntryIndex) (w : Watch),
    s.Commands p h i w →
    let inactive := if w.defn.active = .a then w.defn.bankB else w.defn.bankA
    (inactive = none ∨ w.dyn.swapPending = true → Answers (.swapBank p tag h) s p tag .badState [] s) ∧
    (inactive ≠ none → w.dyn.swapPending = false →
      ((s.entry i).state = .defined → Answers (.swapBank p tag h) s p tag .ok []
        (s.withWatchAt i
          { defn := { w.defn with active := if w.defn.active = .a then .b else .a }
            dyn := { w.dyn with candidate := none } })) ∧
      ((s.entry i).state = .armed → Answers (.swapBank p tag h) s p tag .ok []
        (s.withWatchAt i { w with dyn := { w.dyn with swapPending := true } })))

/-- ARM (R31, R32, R48, R50): BAD_STATE but in DEFINED with activity NONE; BAD_PARAMETER for a delay on a start that is not
INTERVAL; else ARMED with condition UNKNOWN, no candidate and no held trigger, an INTERVAL watch in its place in the due list,
and with delay 0 expired at once unless the scheduler is held (ahead of any other due member: log 22). -/
def Obligations.ArmSchedulesTheWatch : Prop :=
  ∀ (s : State) (p : Port) (tag : Byte) (h : Handle) (delay : Half) (i : EntryIndex) (w : Watch),
    s.Commands p h i w →
    let w' : Watch := { w with dyn := { w.dyn with condition := .unknown, candidate := none, heldTrigger := false } }
    let s' := s.setEntry i { s.entry i with state := .armed, watch := some w' }
    let due := s.now + BitVec.ofNat 32 (delay.toNat * 10)
    ((s.entry i).state ≠ .defined ∨ (s.entry i).activity ≠ .none →
      Answers (.arm p tag h delay) s p tag .badState [] s) ∧
    ((s.entry i).state = .defined → (s.entry i).activity = .none →
      ((∀ n, w.defn.contract.start ≠ .interval n) →
        (delay ≠ 0 → Answers (.arm p tag h delay) s p tag .badParameter [] s) ∧
        (delay = 0 → Answers (.arm p tag h delay) s p tag .ok [] s')) ∧
      ∀ n, w.defn.contract.start = .interval n →
        ∃ t, s'.JoinsDueList i w' due t ∧
          (delay ≠ 0 ∨ s.isHeld = true → Answers (.arm p tag h delay) s p tag .ok [] t) ∧
          (delay = 0 → s.isHeld = false →
            ∃ u, t.ExpiryTaken i { w' with dyn := { w'.dyn with due := some due } } n due .onTime u ∧
              Answers (.arm p tag h delay) s p tag .ok [] u))

/-- DISARM (R33, R34, R35): BAD_STATE but in ARMED; else the watch leaves the due list, loses its held trigger, takes a pending swap
silently, has its work let go unless it is CONVERTING, and is DEFINED. An ARMED watch whose engine is RESERVED takes its delivery
first, and the command then finds the watch as that leaves it, DEFINED where a ONCE delivery ended it (R132, log 12). -/
def Obligations.DisarmEndsScheduling : Prop :=
  ∀ (s : State) (p : Port) (tag : Byte) (h : Handle) (i : EntryIndex) (w : Watch), s.Commands p h i w →
    (s.reservedFor i = none →
      let w' : Watch :=
        { defn := if w.dyn.swapPending = true then { w.defn with active := if w.defn.active = .a then .b else .a } else w.defn
          dyn := { w.dyn with
            due := none, heldTrigger := false, swapPending := false
            candidate := if w.dyn.swapPending = true then none else w.dyn.candidate } }
      let s' := { s.withWatchAt i w' with dueList := s.dueList.filter fun m => decide (m.entry ≠ i) }
      ((s.entry i).state ≠ .armed → Answers (.disarm p tag h) s p tag .badState [] s) ∧
      ((s.entry i).state = .armed →
        ∃ u, s'.WorkLetGo u i ∧
          Answers (.disarm p tag h) s p tag .ok [] (u.setEntry i { u.entry i with state := .defined }))) ∧
    (∀ e t, s.reservedFor i = some e → (s.entry i).state = .armed → exec (.delivery (.engine e)) s = .next t →
      t.reservedFor i = none →
      exec (.disarm p tag h) s = exec (.disarm p tag h) t ∧
      (w.defn.contract.lifetime = .once → Answers (.disarm p tag h) s p tag .badState [] t))

/-- RETIRE (R37, R38, R39): the generation advances, the watch leaves the due list and the owner's attention set; a CONVERTING
watch's entry is RETIRING and keeps it, any other has its work let go and its entry FREE. A watch whose engine is RESERVED takes its
delivery first, and the command then finds the watch as that leaves it (R132, log 12). -/
def Obligations.RetireFreesTheEntry : Prop :=
  ∀ (s : State) (p : Port) (tag : Byte) (h : Handle) (i : EntryIndex) (w : Watch), s.Commands p h i w →
    (s.reservedFor i = none →
      let w' : Watch := { w with dyn := { w.dyn with due := none, heldTrigger := false, swapPending := false } }
      let a := s.attention p
      let s' := { (s.withWatchAt i w').setAttention p { a with causes := a.causes.set i 0 } with
        dueList := s.dueList.filter fun m => decide (m.entry ≠ i) }
      let generation := (s.entry i).generation + 1
      ((s.entry i).activity = .converting → Answers (.retire p tag h) s p tag .ok []
        (s'.setEntry i ⟨.retiring, generation, .converting, some w'⟩)) ∧
      ((s.entry i).activity ≠ .converting →
        ∃ u, s'.WorkLetGo u i ∧
          Answers (.retire p tag h) s p tag .ok [] (u.setEntry i ⟨.free, generation, .none, none⟩))) ∧
    (∀ e t, s.reservedFor i = some e → exec (.delivery (.engine e)) s = .next t → t.reservedFor i = none →
      exec (.retire p tag h) s = exec (.retire p tag h) t)

/-- SAMPLE (R42) and what a start comes to (R54 to R57, R87, R123): BAD_STATE but in ARMED, HELD while the scheduler is held, else
a start whose disposition is the answer's one byte. -/
def Obligations.SampleStartsTheWatch : Prop :=
  ∀ (s : State) (p : Port) (tag : Byte) (h : Handle) (i : EntryIndex) (w : Watch),
    s.Commands p h i w →
    ((s.entry i).state ≠ .armed → Answers (.sample p tag h) s p tag .badState [] s) ∧
    ((s.entry i).state = .armed → s.isHeld = true → Answers (.sample p tag h) s p tag .held [] s) ∧
    ((s.entry i).state = .armed → s.isHeld = false →
      ∃ t d, s.StartTaken i w t d ∧
        Answers (.sample p tag h) s p tag .ok
          [match d with | .started => 0 | .joined => 1 | .heldTrigger => 2 | .overrun => 3] t)

/-! ### Attention -/

/-- FETCH ATTENTION (R159) on a set with members: the lowest index at or after the cursor, else the lowest from 0; the handle,
causes and remaining count are answered, the member is gone, the cursor stands past it, and the line follows (R158). -/
def Obligations.FetchAttentionRotates : Prop :=
  ∀ (s : State) (p : Port) (tag : Byte) (i : EntryIndex),
    let a := s.attention p
    let s' := s.setAttention p { a with causes := a.causes.set i 0, cursor := i + 1 }
    s.accepts p = true → a.causes[i] ≠ 0 →
    (a.cursor ≤ i ∧ ∀ j, a.cursor ≤ j → a.causes[j] ≠ 0 → i ≤ j) ∨
      ((∀ j, a.cursor ≤ j → a.causes[j] = 0) ∧ ∀ j, a.causes[j] ≠ 0 → i ≤ j) →
    Answers (.fetchAttention p tag) s p tag .ok
      [BitVec.ofNat 8 i.val, (s.entry i).generation.setWidth 8, a.causes[i].setWidth 8,
        BitVec.ofNat 8 (allEntries.countP fun j => decide (j ≠ i) && decide (a.causes[j] ≠ 0))] s' ∧
    (s'.attentionLine p = true ↔ a.enable = true ∧ ∃ j, j ≠ i ∧ a.causes[j] ≠ 0) ∧
    s'.attentionLine (otherPort p) = s.attentionLine (otherPort p)

/-- R160. FETCH ATTENTION on an empty set is answered EMPTY with no data, whatever the enable and whether or not the scheduler is
held, and cursor, enable and line stand. -/
def Obligations.FetchAttentionOnAnEmptySet : Prop :=
  ∀ (s : State) (p : Port) (tag : Byte), s.accepts p = true → (∀ i : EntryIndex, (s.attention p).causes[i] = 0) →
    Answers (.fetchAttention p tag) s p tag .empty [] s ∧ s.attentionLine p = false

/-- R162 with R158. ATTENTION ENABLE sets the enable and nothing else, and the line then follows set and enable; any other value
is refused. -/
def Obligations.AttentionEnableGovernsTheLine : Prop :=
  ∀ (s : State) (p : Port) (tag value : Byte), s.accepts p = true →
    (∀ on, (value = 0 ∧ on = false) ∨ (value = 1 ∧ on = true) →
      let s' := s.setAttention p { s.attention p with enable := on }
      Answers (.attentionEnable p tag value) s p tag .ok [] s' ∧
      (s'.attentionLine p = true ↔ on = true ∧ ∃ i : EntryIndex, (s.attention p).causes[i] ≠ 0) ∧
      s'.attentionLine (otherPort p) = s.attentionLine (otherPort p)) ∧
    (value ≠ 0 → value ≠ 1 → Answers (.attentionEnable p tag value) s p tag .badParameter [] s)

/-! ### Corrections -/

/-- R110, R111. SET CORRECTION replaces one entry and answers it, READ CORRECTION answers one and changes nothing; a value outside
its range is refused. -/
def Obligations.CorrectionsAreWrittenAndRead : Prop :=
  ∀ (s : State) (p : Port) (tag : Byte) (input range : Byte) (gain offset : Half), s.accepts p = true →
    (∀ (n : AnalogInput) (r : Fin 4), input.toNat = n.val → range.toNat = r.val →
      (-2048 ≤ offset.toInt → offset.toInt ≤ 2047 →
        let s' := s.setCorrection n r ⟨gain.toNat, offset.toInt⟩
        Answers (.setCorrection p tag input range gain offset) s p tag .ok
          [input, range, gain.extractLsb' 8 8, gain.extractLsb' 0 8, offset.extractLsb' 8 8, offset.extractLsb' 0 8] s' ∧
        s'.correction n r = ⟨gain.toNat, offset.toInt⟩ ∧
        ∀ n' r', (n' ≠ n ∨ r' ≠ r) → s'.correction n' r' = s.correction n' r') ∧
      ∀ k, s.correction n r = k →
        Answers (.readCorrection p tag input range) s p tag .ok
          ([input, range] ++ halfBytes (BitVec.ofNat 16 k.gain) ++ halfBytes (BitVec.ofInt 16 k.offset)) s) ∧
    (16 ≤ input.toNat ∨ 4 ≤ range.toNat →
      Answers (.setCorrection p tag input range gain offset) s p tag .badParameter [] s ∧
      Answers (.readCorrection p tag input range) s p tag .badParameter [] s) ∧
    (offset.toInt < -2048 ∨ 2047 < offset.toInt →
      Answers (.setCorrection p tag input range gain offset) s p tag .badParameter [] s)

/-- R85, R106, R107, R108. The raw code of a level in µV (log 5): its steps rounded down, from 0 on a unipolar range and from 2048
on a bipolar one, and the clamp codes beyond the span. The corrected value: signed code plus offset, times gain, divided by 32768
toward zero, held within the limits of the range, saturated where it had to be held. The identity entry passes every code. -/
def Obligations.ConversionArithmeticIsExact : Prop :=
  (∀ (range : Fin 4) (level : Int),
    let step : Int := if range = 0 then 500 else if range = 3 then 2000 else 1000
    let zero : Int := if range.val < 2 then 0 else 2048
    rawCode range level ≤ 4095 ∧
    (-zero * step ≤ level → level < (4096 - zero) * step →
      ((rawCode range level : Int) - zero) * step ≤ level ∧ level < ((rawCode range level : Int) - zero + 1) * step) ∧
    (level < -zero * step → rawCode range level = 0) ∧
    ((4096 - zero) * step ≤ level → rawCode range level = 4095)) ∧
  (∀ (k : Correction) (range : Fin 4) (raw : Nat),
    k.gain ≤ 65535 → -2048 ≤ k.offset → k.offset ≤ 2047 → raw ≤ 4095 →
    let code : Int := if range.val < 2 then raw else raw - 2048
    let sum := code + k.offset
    let product := sum * k.gain
    let q := correctionQuotient k range raw
    let lo : Int := if range.val < 2 then 0 else -2048
    let hi : Int := if range.val < 2 then 4095 else 2047
    (-4096 : Int) ≤ sum ∧ sum ≤ 6142 ∧ -268431360 ≤ product ∧ product ≤ 402515970 ∧
    (0 ≤ product → 32768 * q ≤ product ∧ product < 32768 * (q + 1)) ∧
    (product < 0 → 32768 * (q - 1) < product ∧ product ≤ 32768 * q) ∧
    (q < lo → correctedValue k range raw = lo) ∧ (hi < q → correctedValue k range raw = hi) ∧
    (lo ≤ q → q ≤ hi → correctedValue k range raw = q) ∧
    (saturated k range raw = true ↔ q < lo ∨ hi < q) ∧
    (k = ⟨32768, 0⟩ → correctedValue k range raw = code ∧ saturated k range raw = false))

/-! ### Timing inputs and engines -/

/-- SET FILTER (R115, R117, R178): INPUT_BUSY while an assigned engine names the input; else the setting changes, and the filtered
level takes the raw level at once where that has held for the new filter time, of 0, 2, 50 or 1000 µs; a repeated setting changes
nothing. Values outside their encodings are refused. -/
def Obligations.SetFilterChangesAnIdleInput : Prop :=
  ∀ (s : State) (p : Port) (tag input setting : Byte), s.accepts p = true →
    (∀ (n : TimingInput) (f : FilterSetting), input.toNat = n.val →
      setting = (match f with | .off => 0 | .us2 => 1 | .us50 => 2 | .ms1 => 3) →
      let time := match f with | .off => 0 | .us2 => 2 | .us50 => 50 | .ms1 => 1000
      let d := s.din n
      let busy := ∃ e m, (s.engine e).state ≠ .free ∧ (s.engine e).measurement = some m ∧ m.input = n
      f.micros = time ∧
      (busy → Answers (.setFilter p tag input setting) s p tag .inputBusy [] s) ∧
      (¬ busy →
        (d.setting = f → Answers (.setFilter p tag input setting) s p tag .ok [] s) ∧
        (d.setting ≠ f → d.raw ≠ d.level → time ≤ d.rawHeld →
          Answers (.setFilter p tag input setting) s p tag .ok [] (s.setDin n { d with setting := f, level := d.raw })) ∧
        (d.setting ≠ f → (d.raw = d.level ∨ d.rawHeld < time) →
          Answers (.setFilter p tag input setting) s p tag .ok [] (s.setDin n { d with setting := f })))) ∧
    (8 ≤ input.toNat ∨ 4 ≤ setting.toNat → Answers (.setFilter p tag input setting) s p tag .badParameter [] s)

/-- DIN_TRANSITION (R115, R116, R125, R126, R127). A raw level that differs from the filtered one and holds for the filter time
(`held` bounds how long it holds; nothing else timed may be due sooner, log 4) is one transition, and every engine that measures
the input sees it, all of them in that one step (the model's choice: log 32; a NORMAL time is less than the limit: log 2); a
level that reverts or does not hold leaves the filtered level and the engines' states alone. Where the raw level has held for the
filter time before it changes, its transition is taken first. -/
def Obligations.DinTransitionReachesTheEngines : Prop :=
  ∀ (s : State) (n : TimingInput) (level : Level) (held : Nat), s.resetAsserted = false →
    let d := s.din n
    let heldNow := if d.raw = level then d.rawHeld else 0
    let s' := s.setDin n { d with raw := level, rawHeld := heldNow }
    let wait := d.setting.micros - heldNow
    let first := level ≠ d.raw ∧ d.raw ≠ d.level ∧ d.setting.micros ≤ d.rawHeld
    (first → ∃ u, exec (.dinTransition n d.raw 0) s = .next u ∧
      exec (.dinTransition n level held) s = exec (.dinTransition n level held) u) ∧
    (¬ first → level ≠ d.level → wait ≤ held → s'.NothingSooner wait →
      ∃ t, exec (.dinTransition n level held) s = .next t ∧
        (t.din n).level = level ∧
        (∀ e, EngineSees n level ((s'.elapse wait).engine e) (t.engine e)) ∧
        { t with engines := (s'.elapse wait).engines } = (s'.elapse wait).setDin n { (s'.elapse wait).din n with level := level }) ∧
    (¬ first → level = d.level ∨ held < wait →
      ∃ k ≤ held, exec (.dinTransition n level held) s = .next (s'.elapse k))

/-- LIMIT_EXPIRY and GATE_EXPIRY (R127, R128, R129): at limit x 1000 µs after assignment an engine in AWAIT_START or TIMING ends
STALLED with the limit in µs, and one in GATING ends NORMAL with its count at its gate; both are then RESERVED. Nothing else timed
may be due sooner (log 4). -/
def Obligations.LimitAndGateExpiriesEndTheMeasurement : Prop :=
  ∀ (s : State) (e : EngineIndex), s.resetAsserted = false →
    let wait := (s.engine e).expiry - (s.engine e).age
    let u := s.elapse wait
    s.NothingSooner wait →
    ((s.engine e).state = .awaitStart ∨ (s.engine e).state = .timing →
      exec (.limitExpiry e) s = .next (u.setEngine e
        { u.engine e with state := .reserved, outcome := some ⟨.stalled, some ((s.engine e).expiry : Int)⟩ })) ∧
    ((s.engine e).state = .gating →
      exec (.gateExpiry e) s = .next (u.setEngine e
        { u.engine e with state := .reserved, outcome := some ⟨.normal, some ((s.engine e).count : Int)⟩ }))

/-! ### Trigger lines -/

/-- R75 with the encodings of R178. TRIGGER CONFIG sets mode and edge and the sub-state they call for, and nothing else; values
outside their encodings are refused. -/
def Obligations.TriggerConfigSetsTheLine : Prop :=
  ∀ (s : State) (p : Port) (tag line mode edge : Byte), s.accepts p = true →
    (∀ (l : TrgLine) (m : TrgMode) (g : TrgEdge), line.toNat = (if l = .trg0 then 0 else 1) →
      mode = (match m with | .off => 0 | .every => 1 | .once => 2) →
      edge = (match g with | .rising => 0 | .falling => 1 | .both => 2) →
      Answers (.triggerConfig p tag line mode edge) s p tag .ok []
        (s.setLine l { s.line l with mode := m, edge := g, sub := if m = .once then some .ready else none })) ∧
    (2 ≤ line.toNat ∨ 3 ≤ mode.toNat ∨ 3 ≤ edge.toNat →
      Answers (.triggerConfig p tag line mode edge) s p tag .badParameter [] s)

/-- R76. TRIGGER REARM makes a ONCE line READY and changes nothing else; BAD_STATE in OFF and EVERY; another line number is
refused. -/
def Obligations.TriggerRearmReadiesAOnceLine : Prop :=
  ∀ (s : State) (p : Port) (tag line : Byte), s.accepts p = true →
    (∀ l : TrgLine, line.toNat = (if l = .trg0 then 0 else 1) →
      ((s.line l).mode = .once → Answers (.triggerRearm p tag line) s p tag .ok []
        (s.setLine l { s.line l with sub := some .ready })) ∧
      ((s.line l).mode = .off ∨ (s.line l).mode = .every → Answers (.triggerRearm p tag line) s p tag .badState [] s)) ∧
    (2 ≤ line.toNat → Answers (.triggerRearm p tag line) s p tag .badParameter [] s)

/-- TRG_TRANSITION (R69, R70, R71, R73). A raw level that differs from the filtered one and has held for 2 µs is one transition
(nothing else timed being due sooner, log 4): one that does not match the edge setting changes the level alone; an accepted edge
is counted in every mode, waits during a fan-out of the line, and else fans out as the mode says, a READY line becoming SPENT. A
level that reverts or does not hold changes no filtered level. Where the raw level has held for 2 µs before it changes, its
transition is taken first. -/
def Obligations.TriggerTransitionsAreCountedAndTaken : Prop :=
  ∀ (s : State) (l : TrgLine) (level : Level) (held examined : Nat), s.resetAsserted = false →
    let x := s.line l
    let heldNow := if x.raw = level then x.rawHeld else 0
    let s' := s.setLine l { x with raw := level, rawHeld := heldNow }
    let wait := 2 - heldNow
    let first := level ≠ x.raw ∧ x.raw ≠ x.level ∧ 2 ≤ x.rawHeld
    let u := s'.elapse wait
    let seen : TrgContext := { u.line l with level := level }
    let counted : TrgContext := { seen with count := seen.count + 1 }
    let accepted := x.edge = .both ∨ (x.edge = .rising ∧ level = .high) ∨ (x.edge = .falling ∧ level = .low)
    let answers := fun t => exec (.trgTransition l level held examined) s = .next t
    (first → ∃ v, exec (.trgTransition l x.raw 0 examined) s = .next v ∧
      exec (.trgTransition l level held examined) s = exec (.trgTransition l level held examined) v) ∧
    (¬ first → level ≠ x.level → wait ≤ held → s'.NothingSooner wait →
      (¬ accepted → answers (u.setLine l seen)) ∧
      (accepted → x.fanOut ≠ none → answers (u.setLine l { counted with waiting := true })) ∧
      (accepted → x.fanOut = none →
        (x.mode = .off → answers (u.setLine l counted)) ∧
        (x.mode = .every → answers ((u.setLine l counted).fanOut l 0 examined)) ∧
        (x.mode = .once → x.sub = some .spent → answers (u.setLine l counted)) ∧
        (x.mode = .once → x.sub = some .ready →
          answers ((u.setLine l { counted with sub := some .spent }).fanOut l 0 examined)))) ∧
    (¬ first → level = x.level ∨ held < wait → ∃ k ≤ held, answers (s'.elapse k))

/-- A fan-out that goes on from entry k for n entries (R63, R72, R73, R74), the whole of it for 0 and 64: it reaches every ARMED
watch bound to the line among them, no other entry changes, and it ends with entry 63. While the scheduler is held each start is
taken by policy alone and nothing but entries and attention sets changes; while it is not, a fan-out over one entry is, but for
the line, the start of the watch bound there as R54 to R56 take it (StartTaken of Safety.lean), or nothing; and every fan-out is
made of such ones. -/
def Obligations.FanOutStartsEveryBoundWatch : Prop :=
  ∀ (s : State) (l : TrgLine) (k n : Nat),
    let t := s.fanOut l k n
    let bound := fun (i : EntryIndex) w => k ≤ i.val ∧ i.val < k + n ∧
      (s.entry i).state = .armed ∧ (s.entry i).watch = some w ∧ w.defn.contract.start = .trg l
    let takesHeld := fun w : Watch => w.defn.contract.policy = .hold ∧ w.dyn.heldTrigger = false
    let overrun := fun w : Watch => { w with dyn := { w.dyn with overruns := min 255 (w.dyn.overruns + 1) } }
    (t.line l = { s.line l with fanOut := if k + n < 64 then some (k + n) else none }) ∧
    (∀ i, (∀ w, ¬ bound i w) → t.entry i = s.entry i) ∧
    (∀ i w, bound i w → (s.isHeld = true ∨ (s.entry i).activity ≠ .none) →
      (takesHeld w → t.entry i = { s.entry i with watch := some { w with dyn := { w.dyn with heldTrigger := true } } }) ∧
      (¬ takesHeld w → t.entry i = { s.entry i with watch := some (overrun w) })) ∧
    (∀ i w, bound i w → s.isHeld = false → (s.entry i).activity = .none →
      (∀ k n pol span, w.defn.contract.measure = .timing k n pol span →
        t.entry i = { s.entry i with activity := .measuring } ∨ t.entry i = { s.entry i with activity := .awaitingEngine }) ∧
      (∀ n r d, w.defn.contract.measure = .level n r d →
        t.entry i = { s.entry i with activity := .queued } ∨ t.entry i = { s.entry i with watch := some (overrun w) })) ∧
    (s.isHeld = true →
      { t with entries := s.entries, attentionA := s.attentionA, attentionB := s.attentionB }.setLine l (s.line l) = s ∧
      ∀ q (i : EntryIndex),
        ((∃ w, bound i w ∧ w.defn.owner = q ∧ ¬ takesHeld w ∧ w.defn.contract.notify.getLsbD 2 = true) →
          (t.attention q).causes[i] = (s.attention q).causes[i] ||| 0b00100) ∧
        ((∀ w, bound i w → w.defn.owner = q → takesHeld w ∨ w.defn.contract.notify.getLsbD 2 = false) →
          (t.attention q).causes[i] = (s.attention q).causes[i])) ∧
    (s.isHeld = false → ∀ (i : EntryIndex) (u : State), u = (s.fanOut l i.val 1).setLine l (s.line l) →
      (∀ w, (s.entry i).state = .armed → (s.entry i).watch = some w → w.defn.contract.start = .trg l → ∃ d, s.StartTaken i w u d) ∧
      ((∀ w, (s.entry i).state = .armed → (s.entry i).watch = some w → w.defn.contract.start ≠ .trg l) → u = s)) ∧
    ∀ m, t.fanOut l (k + n) m = s.fanOut l k (n + m)

/-- WAITING_EDGE (R71, R73). The line's fan-out goes on for `n` entries (log 8). Where it does not reach its end, or no edge
waits, that is all; where it ends and an edge waits, that edge is taken by the mode and sub-state then standing, no edge waits any
more, and a fan-out that it begins examines what is left of the `n` entries. -/
def Obligations.WaitingEdgeIsTakenAfterTheFanOut : Prop :=
  ∀ (s : State) (l : TrgLine) (n : Nat), s.resetAsserted = false →
    let x := s.line l
    let answers := fun t => exec (.waitingEdge l n) s = .next t
    let taken := fun (u : State) (m : Nat) =>
      let v : TrgContext := { u.line l with waiting := false }
      (v.mode = .off → answers (u.setLine l v)) ∧
      (v.mode = .every → answers ((u.setLine l v).fanOut l 0 m)) ∧
      (v.mode = .once → v.sub = some .spent → answers (u.setLine l v)) ∧
      (v.mode = .once → v.sub = some .ready → answers ((u.setLine l { v with sub := some .spent }).fanOut l 0 m))
    (∃ t, answers t) ∧
    (∀ k, x.fanOut = some k → k + n < 64 ∨ x.waiting = false → answers (s.fanOut l k n)) ∧
    (∀ k, x.fanOut = some k → 64 ≤ k + n → x.waiting = true → taken (s.fanOut l k n) (k + n - 64)) ∧
    (x.fanOut = none → x.waiting = false → answers s) ∧
    (x.fanOut = none → x.waiting = true → taken s n)

/-! ### The scheduler -/

/-- R61. HOLD sets the port's claim, and nothing else changes; the answer is the two claims as they then stand, and the scheduler
is held. -/
def Obligations.HoldSetsTheClaim : Prop :=
  ∀ (s : State) (p : Port) (tag : Byte), s.accepts p = true →
    Answers (.hold p tag) s p tag .ok
      [if p = .a ∨ s.holdA = true then 1 else 0, if p = .b ∨ s.holdB = true then 1 else 0] (s.setHold p true) ∧
    (s.setHold p true).isHeld = true ∧ (s.hold p = true → s.setHold p true = s) ∧
    (∀ t : State, t.isHeld = true ↔ t.holdA = true ∨ t.holdB = true)

/-- RESUME (R49, R50, R51, R62, R64, R161). Unless it clears the last claim it changes nothing but its own claim. When it does, it
completes whatever comes between the claims of its resume work (log 15), deliveries and starts leaving time, pins and claims
alone; what its port does before the answer puts the marker on it where it is a write, and nothing else (R170). With nothing
between the claims, on a due list in order (DueListInvariantIsKept), every member takes the lateness status it has by now, its
change taken or not (log 29), those that are behind expire one after the other in list order, and the held triggers of idle ARMED
watches are then serviced in index order, each expiry and service with its start as R54 to R56 take it (the terms stand in
Safety.lean). So every PAST_DUE member keeps its phase, every LATE one is realigned to now with a late overrun, a held trigger of
a watch that was not behind is cleared with one start, no member is behind any more, and every other entry stands. A FETCH
ATTENTION or ATTENTION ENABLE of the other port that comes before an expiry or a service does there what its frame does (R161, log
15). -/
def Obligations.ResumeDoesTheResumeWork : Prop :=
  ∀ (s : State) (p : Port) (tag : Byte), s.accepts p = true →
    let released := s.setHold p false
    let answers := fun between data s' => ∀ own, ∃ t, exec (.resume p ⟨tag, between, own⟩) s = .next t ∧
      (t.port p).window = .ready ⟨.ok, decide (OwnTransaction.write ∈ own), tag, data⟩ ∧ t.setPort p (State.port s' p) = s'
    (s.hold p = false ∨ s.hold (otherPort p) = true → ∀ between,
      answers between
        [if p = .b ∧ s.holdA = true then 1 else 0, if p = .a ∧ s.holdB = true then 1 else 0] released) ∧
    (s.hold p = true → s.hold (otherPort p) = false →
      (∀ between own, ∃ t, exec (.resume p ⟨tag, between, own⟩) s = .next t) ∧
      (∀ between, (∀ b ∈ between, isQuiet b.event = true) → ∃ t, answers between [0, 0] t ∧ t.isHeld = false ∧ t.now = s.now ∧
        t.micro = s.micro ∧ t.corrections = s.corrections ∧ t.dins = s.dins ∧ t.trg0 = s.trg0 ∧ t.trg1 = s.trg1 ∧
        t.check = s.check) ∧
      (s.DueListOk → ∃ settled u t, s.Settled settled ∧
        let late := settled.filter fun m => decide (m.lateness ≠ .onTime)
        ExpiriesTaken late { released with dueList := settled } u ∧ ServicesTaken allEntries u t ∧
        answers [] [0, 0] t ∧
        (∀ m ∈ t.dueList, m.lateness = .onTime) ∧
        (∀ m ∈ late, ∀ w n d, (s.entry m.entry).watch = some w → w.defn.contract.start = .interval n →
          w.dyn.due = some d →
          ∃ w', (t.entry m.entry).watch = some w' ∧ w'.defn = w.defn ∧
            (m.lateness = .pastDue → w'.dyn.due = some (d + BitVec.ofNat 32 (n * 10))) ∧
            (m.lateness = .late → w'.dyn.due = some (s.now + BitVec.ofNat 32 (n * 10)) ∧
              min 255 (w.dyn.overruns + 1) ≤ w'.dyn.overruns)) ∧
        (∀ i w, s.Waits i w → (∀ m ∈ late, m.entry ≠ i) →
          let w' : Watch := { w with dyn := { w.dyn with heldTrigger := false } }
          (t.entry i).watch = some w' ∧ (t.entry i).activity ≠ .none ∨
          t.entry i = { s.entry i with
            watch := some { w' with dyn := { w'.dyn with overruns := min 255 (w'.dyn.overruns + 1) } } }) ∧
        (∀ i, (∀ m ∈ late, m.entry ≠ i) → (∀ w, ¬ s.Waits i w) → t.entry i = s.entry i) ∧
        (∀ c, { t.converter c with queue := (s.converter c).queue } = s.converter c) ∧
        ∀ (i : Instr) (tag' : Byte) (frame : List Byte),
          (i = .fetchAttention (otherPort p) tag' ∨ ∃ x, i = .attentionEnable (otherPort p) tag' x) → encodeFrame i = some frame →
          let opening := some (s.writeOpening (otherPort p))
          let takes := fun v v' => exec (.requestFrame (otherPort p) opening frame) v = .next v'
          (∀ front m back, late = front ++ m :: back → ∃ v v' w x,
            ExpiriesTaken front { released with dueList := settled } v ∧ takes v v' ∧ ExpiriesTaken (m :: back) v' w ∧
            ServicesTaken allEntries w x ∧ answers [⟨.expiry m.entry, .transaction opening frame⟩] [0, 0] x) ∧
          (∀ j : EntryIndex, ∃ v v' x,
            ServicesTaken (allEntries.take j.val) u v ∧ takes v v' ∧ ServicesTaken (allEntries.drop j.val) v' x ∧
            answers [⟨.service j, .transaction opening frame⟩] [0, 0] x)))

/-- INTERVAL_EXPIRY (R50, R51): while the scheduler is not held, the head of the due list is expired when its due time is reached,
nothing else timed being due sooner (log 4). -/
def Obligations.IntervalExpiryReschedulesAndStarts : Prop :=
  ∀ (s : State) (m : DueMember) (rest : List DueMember) (w : Watch) (n : Nat) (due : DeviceTime),
    s.resetAsserted = false → s.isHeld = false → s.dueList = m :: rest →
    (s.entry m.entry).state = .armed → (s.entry m.entry).watch = some w → w.defn.contract.start = .interval n →
    w.dyn.due = some due → s.NothingSooner (s.waitFor due) →
    ∃ t, exec .intervalExpiry s = .next t ∧
      (s.elapse (s.waitFor due)).ExpiryTaken m.entry w n due m.lateness t

/-- BECOME_PAST_DUE and BECOME_LATE (R49): while the scheduler is held, a member whose due time is reached becomes PAST_DUE, and
LATE one interval later, nothing else timed being due sooner (log 4); its place, its due time and all else stand. -/
def Obligations.HeldMembersFallBehind : Prop :=
  ∀ (s : State) (m : DueMember) (w : Watch) (due : DeviceTime),
    s.resetAsserted = false → s.isHeld = true → s.dueList.find? (fun x => decide (x.entry = m.entry)) = some m →
    (s.entry m.entry).watch = some w → w.dyn.due = some due →
    let marked := fun (u : State) l =>
      { u with dueList := s.dueList.map fun x => if x.entry = m.entry then { x with lateness := l } else x }
    (m.lateness = .onTime → s.NothingSooner (s.waitFor due) →
      exec (.becomePastDue m.entry) s = .next (marked (s.elapse (s.waitFor due)) .pastDue)) ∧
    (∀ n, m.lateness = .pastDue → w.defn.contract.start = .interval n →
      let late := due + BitVec.ofNat 32 (n * 10)
      s.NothingSooner (s.waitFor late) →
      exec (.becomeLate m.entry) s = .next (marked (s.elapse (s.waitFor late)) .late))

/-! ### Converters -/

/-- REFERENCE CHECK (R98, R183): CHECK_BUSY while a check is in progress; QUEUE_FULL where a queue holds 8; else a CHECK request
at the back of each queue, both results pending, and the window left EXECUTING. -/
def Obligations.ReferenceCheckEntersBothQueues : Prop :=
  ∀ (s : State) (p : Port) (tag : Byte), s.accepts p = true →
    let check : Request := ⟨.checkSource, 1, 10, []⟩
    (s.check.issuer ≠ none → Answers (.referenceCheck p tag) s p tag .checkBusy [] s) ∧
    (s.check.issuer = none → (8 ≤ s.conv0.queue.length ∨ 8 ≤ s.conv1.queue.length) →
      Answers (.referenceCheck p tag) s p tag .queueFull [] s) ∧
    (s.check.issuer = none → s.conv0.queue.length < 8 → s.conv1.queue.length < 8 →
      ∃ t, exec (.referenceCheck p tag) s = .next t ∧ (t.port p).window = .executing tag false ∧
        t.setPort p (s.port p) =
          { s with
            conv0 := { s.conv0 with queue := s.conv0.queue ++ [check] }
            conv1 := { s.conv1 with queue := s.conv1.queue ++ [check] }
            check := ⟨some p, none, none⟩ })

/-- WARMUP_EXPIRY, REQUEST_START and SETTLE_EXPIRY (R83, R84, R85): at device time 200 a converter in WARMUP, and at once an IDLE
one, takes its oldest request; at the settle expiry it begins the 6 µs conversion. Nothing else timed may be due sooner (log 4). -/
def Obligations.ConvertersTakeAndSettleRequests : Prop :=
  ∀ (s : State) (c : ConverterId), s.resetAsserted = false →
    (let wait := 2000 - (s.now.toNat * 10 + s.micro.val)
     (s.converter c).state = .warmup → s.NothingSooner wait →
      ∃ t, exec (.warmupExpiry c) s = .next t ∧ (s.elapse wait).TakesOldest c t) ∧
    ((s.converter c).state = .idle → ∃ t, exec (.requestStart c) s = .next t ∧ s.TakesOldest c t) ∧
    (let u := s.elapse (s.converter c).timer
     (s.converter c).state = .settling → s.NothingSooner (s.converter c).timer →
      exec (.settleExpiry c) s =
        .next (u.setConverter c { u.converter c with state := .converting, timer := 6 }))

/-- CONVERSION_COMPLETION (R93, R94, R109): one outcome from the fault flag, the raw code and the correction entry as they stand,
held for delivery to every subscriber; nothing else changes. The level comes with the command (log 5); nothing else timed may be due
sooner (log 4). -/
def Obligations.ConversionCompletionFormsOneOutcome : Prop :=
  ∀ (s : State) (c : ConverterId) (level : Int) (r : Request) (input : AnalogInput),
    s.resetAsserted = false → (s.converter c).state = .converting → (s.converter c).delivering = none →
    (s.converter c).current = some r → r.source = .ain input → r.subscribers ≠ [] →
    s.NothingSooner (s.converter c).timer →
    let u := s.elapse (s.converter c).timer
    let raw := rawCode r.range level
    let k := s.correction input r.range
    let clipped := raw = 0 ∨ raw = 4095 ∨ saturated k r.range raw = true
    let answers := fun o =>
      exec (.conversionCompletion c level) s = .next (u.setConverter c { u.converter c with delivering := some o })
    ((s.converter c).fault = true → answers ⟨.fault, none⟩) ∧
    ((s.converter c).fault = false → clipped → answers ⟨.clipped, some (correctedValue k r.range raw)⟩) ∧
    ((s.converter c).fault = false → ¬ clipped → answers ⟨.normal, some (correctedValue k r.range raw)⟩)

/-- CHECK_COMPLETION (R99, R100): the raw code is recorded with PASS within 2988 to 3012, the fault flag is written, and the
converter goes on at once (log 11); the second completion ends the check, whose results stand (log 24), and answers its port with
both results and the window's marker. Nothing else timed may be due sooner (log 4). -/
def Obligations.CheckCompletionRecordsAndAnswers : Prop :=
  ∀ (s : State) (c : ConverterId) (level : Int) (r : Request),
    s.resetAsserted = false → (s.converter c).state = .converting → (s.converter c).delivering = none →
    (s.converter c).current = some r → r.source = .checkSource → s.NothingSooner (s.converter c).timer →
    let u := s.elapse (s.converter c).timer
    let code := rawCode 1 level
    let pass := decide (2988 ≤ code ∧ code ≤ 3012)
    let check : CheckContext := match c with
      | .c0 => { s.check with result0 := some ⟨code, pass⟩ }
      | .c1 => { s.check with result1 := some ⟨code, pass⟩ }
    let written := { u.setConverter c { u.converter c with fault := !pass } with check := check }
    ∃ v t, written.TakesOldest c v ∧ exec (.checkCompletion c level) s = .next t ∧
      (check.issuer = none ∨ check.result0 = none ∨ check.result1 = none → t = v) ∧
      (∀ p r0 r1 tag m, check.issuer = some p → check.result0 = some r0 → check.result1 = some r1 →
        (s.port p).window = .executing tag m →
        t = { v with check := { check with issuer := none } }.setPort p { v.port p with
          window := .ready ⟨.ok, m, tag,
            halfBytes (BitVec.ofNat 16 r0.code) ++ [if r0.pass = true then 0 else 1] ++
            halfBytes (BitVec.ofNat 16 r1.code) ++ [if r1.pass = true then 0 else 1]⟩ })

/-! ### Deliveries -/

/-- DELIVERY (R95, R129, R130, R137 to R140, R150, R151). From a converter: the subscriber leaves the request, its entry takes the
outcome by its state, and after the last subscriber the converter goes on at once (log 11). From a RESERVED engine: its holder's
entry takes the outcome and the engine is handed to the head of the wait list or freed. -/
def Obligations.DeliveriesReachTheirEntries : Prop :=
  (∀ (s : State) (c : ConverterId) (i : EntryIndex) (w : Watch) (r : Request) (o : Delivered),
    s.resetAsserted = false → (s.converter c).current = some r → (s.converter c).delivering = some o →
    i ∈ r.subscribers → (s.entry i).watch = some w → (s.entry i).state ≠ .free →
    let rest := r.subscribers.filter fun j => decide (j ≠ i)
    let s' := s.setConverter c { s.converter c with current := some { r with subscribers := rest } }
    ∃ u t, s'.DeliveryTaken i w o u ∧ exec (.delivery (.converter c i)) s = .next t ∧
      (rest ≠ [] → t = u) ∧ (rest = [] → u.TakesOldest c t)) ∧
  (∀ (s : State) (e : EngineIndex) (i : EntryIndex) (w : Watch) (o : Delivered),
    s.resetAsserted = false → (s.engine e).state = .reserved → (s.engine e).holder = some i →
    (s.engine e).outcome = some o → (s.entry i).watch = some w → (s.entry i).state ≠ .free →
    ∃ u t, s.DeliveryTaken i w o u ∧ exec (.delivery (.engine e)) s = .next t ∧ u.EngineReleased e t)

/-- Steps 1 to 4 of a delivery to an ARMED watch (R140, R141, R143 to R148): the watch they leave and the causes they raise. -/
def Obligations.ArmedDeliveryRecordsSwapsAndJudges : Prop :=
  ∀ (w : Watch) (o : Delivered) (now : DeviceTime),
    let recorded := w.recorded o now
    let swapped : Watch := if w.dyn.swapPending = true then
      { defn := { w.defn with active := if w.defn.active = .a then .b else .a }
        dyn := { recorded.dyn with swapPending := false, candidate := none } } else recorded
    let bank := if swapped.defn.active = .a then swapped.defn.bankA else swapped.defn.bankB
    let causes : CauseSet := (if w.dyn.swapPending = true then 0b10000 else 0) ||| 0b00001
    let candidate := swapped.dyn.candidate
    let support := fun x => match candidate with
      | some k => if k.proposed = x then k.count + 1 else 1
      | none => 1
    let leaves := fun (v : Watch) (cs : CauseSet) => w.deliver o now = (v, causes ||| cs)
    (o.value = none → leaves { swapped with dyn := { swapped.dyn with candidate := none } } 0b01000) ∧
    (∀ v, o.value = some v → bank = none → leaves swapped 0) ∧
    (∀ v k x, o.value = some v → bank = some k → Targets swapped.dyn.condition k v x →
      (x.condition = swapped.dyn.condition → leaves { swapped with dyn := { swapped.dyn with candidate := none } } 0) ∧
      (x.condition ≠ swapped.dyn.condition → support x = w.defn.contract.qualify →
        leaves { swapped with dyn := { swapped.dyn with condition := x.condition, candidate := none } } 0b00010) ∧
      (x.condition ≠ swapped.dyn.condition → support x ≠ w.defn.contract.qualify →
        leaves { swapped with dyn := { swapped.dyn with candidate := some ⟨x, support x⟩ } } 0))

/-- R148. A change of condition takes as many consecutive outcomes as the qualify value, all proposing the same new class: after
fewer the candidate counts them and the condition stands, at exactly that many the condition changes and CONDITION is raised, and
one that proposes the current condition or another class, or a FAULT, ends the count. -/
def Obligations.ConditionChangesAfterQualifyOutcomes : Prop :=
  ∀ (w : Watch) (k : Threshold) (x : SignalClass) (os : List Delivered),
    let run := os.foldl (fun (v : Watch × CauseSet) o => v.1.judge o) (w, 0)
    (if w.defn.active = .a then w.defn.bankA else w.defn.bankB) = some k → w.dyn.candidate = none →
    x.condition ≠ w.dyn.condition → os ≠ [] →
    (∀ o ∈ os, ∃ v, o.value = some v ∧ Targets w.dyn.condition k v x) →
    (os.length < w.defn.contract.qualify →
      run = ({ w with dyn := { w.dyn with candidate := some ⟨x, os.length⟩ } }, 0) ∧
      (∀ o, o.value = none →
        run.1.judge o = ({ w with dyn := { w.dyn with candidate := none } }, 0b01000)) ∧
      (∀ o v y, o.value = some v → Targets w.dyn.condition k v y → y ≠ x →
        (y.condition = w.dyn.condition → run.1.judge o = ({ w with dyn := { w.dyn with candidate := none } }, 0)) ∧
        (y.condition ≠ w.dyn.condition →
          run.1.judge o = ({ w with dyn := { w.dyn with candidate := some ⟨y, 1⟩ } }, 0)))) ∧
    (os.length = w.defn.contract.qualify →
      run = ({ w with dyn := { w.dyn with condition := x.condition, candidate := none } }, 0b00010))

/-! ### Invariants that every step keeps -/

/-- The waiting queues (R86, R87), the engine wait list (R122) and the trigger lines (R68, R73). -/
def Obligations.QueueInvariantsAreKept : Prop :=
  ∀ s t : State, step s = .next t →
    (s.QueuesOk → s.WaitListOk → t.QueuesOk ∧ t.WaitListOk) ∧ (s.LinesOk → t.LinesOk)

/-- Entries and their watches (R1, R3, R5, R6, R30, R48, R57, R58, R146). -/
def Obligations.TableInvariantIsKept : Prop :=
  ∀ s : State, s.TableOk → ∀ t, step s = .next t → t.TableOk

/-- The attention sets name watches in DEFINED or ARMED of their own port (R156). -/
def Obligations.AttentionInvariantIsKept : Prop :=
  ∀ s : State, s.AttentionOk → ∀ t, step s = .next t → t.AttentionOk

/-- The due list holds every ARMED INTERVAL watch exactly once and no other (R48), and no member is behind outside a hold (R49,
R64). -/
def Obligations.DueListInvariantIsKept : Prop :=
  ∀ s : State, s.DueListOk → s.LatenessOk → ∀ t, step s = .next t → t.DueListOk ∧ t.LatenessOk

/-- Every watch stands in exactly the place its activity names (R10, R11), a LEVEL watch on a request of its own input at the
converter that serves it (R82, R87). -/
def Obligations.PlacesInvariantIsKept : Prop :=
  ∀ s : State, s.PlacesOk → ∀ t, step s = .next t → t.PlacesOk

/-- The state after power-on reset meets every invariant above. -/
def Obligations.ResetMeetsTheInvariants : Prop :=
  State.reset.QueuesOk ∧ State.reset.WaitListOk ∧ State.reset.TableOk ∧ State.reset.AttentionOk ∧ State.reset.DueListOk ∧
    State.reset.LatenessOk ∧ State.reset.PlacesOk ∧ State.reset.LinesOk
end

