-- ==== Sys2Proof/Laws/State.lean ====
section
/-! SUPPORT. What each named write of the state leaves of each field and of each named read: one lemma for each pair, so that
no proof unfolds a record update. -/

namespace Sys2Proof.Machine

/-! ### setEntry -/

@[simp] theorem State.setEntry_now (s : State) (i : EntryIndex) (v : Entry) : (s.setEntry i v).now = s.now := rfl
@[simp] theorem State.setEntry_micro (s : State) (i : EntryIndex) (v : Entry) : (s.setEntry i v).micro = s.micro := rfl
@[simp] theorem State.setEntry_dueList (s : State) (i : EntryIndex) (v : Entry) : (s.setEntry i v).dueList = s.dueList := rfl
@[simp] theorem State.setEntry_holdA (s : State) (i : EntryIndex) (v : Entry) : (s.setEntry i v).holdA = s.holdA := rfl
@[simp] theorem State.setEntry_holdB (s : State) (i : EntryIndex) (v : Entry) : (s.setEntry i v).holdB = s.holdB := rfl
@[simp] theorem State.setEntry_trg0 (s : State) (i : EntryIndex) (v : Entry) : (s.setEntry i v).trg0 = s.trg0 := rfl
@[simp] theorem State.setEntry_trg1 (s : State) (i : EntryIndex) (v : Entry) : (s.setEntry i v).trg1 = s.trg1 := rfl
@[simp] theorem State.setEntry_conv0 (s : State) (i : EntryIndex) (v : Entry) : (s.setEntry i v).conv0 = s.conv0 := rfl
@[simp] theorem State.setEntry_conv1 (s : State) (i : EntryIndex) (v : Entry) : (s.setEntry i v).conv1 = s.conv1 := rfl
@[simp] theorem State.setEntry_check (s : State) (i : EntryIndex) (v : Entry) : (s.setEntry i v).check = s.check := rfl
@[simp] theorem State.setEntry_corrections (s : State) (i : EntryIndex) (v : Entry) : (s.setEntry i v).corrections = s.corrections := rfl
@[simp] theorem State.setEntry_dins (s : State) (i : EntryIndex) (v : Entry) : (s.setEntry i v).dins = s.dins := rfl
@[simp] theorem State.setEntry_engines (s : State) (i : EntryIndex) (v : Entry) : (s.setEntry i v).engines = s.engines := rfl
@[simp] theorem State.setEntry_waitList (s : State) (i : EntryIndex) (v : Entry) : (s.setEntry i v).waitList = s.waitList := rfl
@[simp] theorem State.setEntry_attentionA (s : State) (i : EntryIndex) (v : Entry) : (s.setEntry i v).attentionA = s.attentionA := rfl
@[simp] theorem State.setEntry_attentionB (s : State) (i : EntryIndex) (v : Entry) : (s.setEntry i v).attentionB = s.attentionB := rfl
@[simp] theorem State.setEntry_portA (s : State) (i : EntryIndex) (v : Entry) : (s.setEntry i v).portA = s.portA := rfl
@[simp] theorem State.setEntry_portB (s : State) (i : EntryIndex) (v : Entry) : (s.setEntry i v).portB = s.portB := rfl
@[simp] theorem State.setEntry_addressB (s : State) (i : EntryIndex) (v : Entry) : (s.setEntry i v).addressB = s.addressB := rfl
@[simp] theorem State.setEntry_resetAsserted (s : State) (i : EntryIndex) (v : Entry) : (s.setEntry i v).resetAsserted = s.resetAsserted := rfl
@[simp] theorem State.setEntry_samples (s : State) (i : EntryIndex) (v : Entry) : (s.setEntry i v).samples = s.samples := rfl
@[simp] theorem State.setEntry_pending (s : State) (i : EntryIndex) (v : Entry) : (s.setEntry i v).pending = s.pending := rfl
@[simp] theorem State.setEntry_engine (s : State) (i : EntryIndex) (v : Entry) (f : EngineIndex) :
    (s.setEntry i v).engine f = s.engine f := rfl
@[simp] theorem State.setEntry_din (s : State) (i : EntryIndex) (v : Entry) (m : TimingInput) :
    (s.setEntry i v).din m = s.din m := rfl
@[simp] theorem State.setEntry_correction (s : State) (i : EntryIndex) (v : Entry) (m : AnalogInput) (q : Fin 4) :
    (s.setEntry i v).correction m q = s.correction m q := rfl
@[simp] theorem State.setEntry_converter (s : State) (i : EntryIndex) (v : Entry) (d : ConverterId) :
    (s.setEntry i v).converter d = s.converter d := by cases d <;> rfl
@[simp] theorem State.setEntry_line (s : State) (i : EntryIndex) (v : Entry) (k : TrgLine) :
    (s.setEntry i v).line k = s.line k := by cases k <;> rfl
@[simp] theorem State.setEntry_attention (s : State) (i : EntryIndex) (v : Entry) (q : Port) :
    (s.setEntry i v).attention q = s.attention q := by cases q <;> rfl
@[simp] theorem State.setEntry_port (s : State) (i : EntryIndex) (v : Entry) (q : Port) :
    (s.setEntry i v).port q = s.port q := by cases q <;> rfl
@[simp] theorem State.setEntry_hold (s : State) (i : EntryIndex) (v : Entry) (q : Port) :
    (s.setEntry i v).hold q = s.hold q := by cases q <;> rfl
@[simp] theorem State.setEntry_isHeld (s : State) (i : EntryIndex) (v : Entry) :
    (s.setEntry i v).isHeld = s.isHeld := rfl

/-! ### setEngine -/

@[simp] theorem State.setEngine_entries (s : State) (e : EngineIndex) (v : Engine) : (s.setEngine e v).entries = s.entries := rfl
@[simp] theorem State.setEngine_now (s : State) (e : EngineIndex) (v : Engine) : (s.setEngine e v).now = s.now := rfl
@[simp] theorem State.setEngine_micro (s : State) (e : EngineIndex) (v : Engine) : (s.setEngine e v).micro = s.micro := rfl
@[simp] theorem State.setEngine_dueList (s : State) (e : EngineIndex) (v : Engine) : (s.setEngine e v).dueList = s.dueList := rfl
@[simp] theorem State.setEngine_holdA (s : State) (e : EngineIndex) (v : Engine) : (s.setEngine e v).holdA = s.holdA := rfl
@[simp] theorem State.setEngine_holdB (s : State) (e : EngineIndex) (v : Engine) : (s.setEngine e v).holdB = s.holdB := rfl
@[simp] theorem State.setEngine_trg0 (s : State) (e : EngineIndex) (v : Engine) : (s.setEngine e v).trg0 = s.trg0 := rfl
@[simp] theorem State.setEngine_trg1 (s : State) (e : EngineIndex) (v : Engine) : (s.setEngine e v).trg1 = s.trg1 := rfl
@[simp] theorem State.setEngine_conv0 (s : State) (e : EngineIndex) (v : Engine) : (s.setEngine e v).conv0 = s.conv0 := rfl
@[simp] theorem State.setEngine_conv1 (s : State) (e : EngineIndex) (v : Engine) : (s.setEngine e v).conv1 = s.conv1 := rfl
@[simp] theorem State.setEngine_check (s : State) (e : EngineIndex) (v : Engine) : (s.setEngine e v).check = s.check := rfl
@[simp] theorem State.setEngine_corrections (s : State) (e : EngineIndex) (v : Engine) : (s.setEngine e v).corrections = s.corrections := rfl
@[simp] theorem State.setEngine_dins (s : State) (e : EngineIndex) (v : Engine) : (s.setEngine e v).dins = s.dins := rfl
@[simp] theorem State.setEngine_waitList (s : State) (e : EngineIndex) (v : Engine) : (s.setEngine e v).waitList = s.waitList := rfl
@[simp] theorem State.setEngine_attentionA (s : State) (e : EngineIndex) (v : Engine) : (s.setEngine e v).attentionA = s.attentionA := rfl
@[simp] theorem State.setEngine_attentionB (s : State) (e : EngineIndex) (v : Engine) : (s.setEngine e v).attentionB = s.attentionB := rfl
@[simp] theorem State.setEngine_portA (s : State) (e : EngineIndex) (v : Engine) : (s.setEngine e v).portA = s.portA := rfl
@[simp] theorem State.setEngine_portB (s : State) (e : EngineIndex) (v : Engine) : (s.setEngine e v).portB = s.portB := rfl
@[simp] theorem State.setEngine_addressB (s : State) (e : EngineIndex) (v : Engine) : (s.setEngine e v).addressB = s.addressB := rfl
@[simp] theorem State.setEngine_resetAsserted (s : State) (e : EngineIndex) (v : Engine) : (s.setEngine e v).resetAsserted = s.resetAsserted := rfl
@[simp] theorem State.setEngine_samples (s : State) (e : EngineIndex) (v : Engine) : (s.setEngine e v).samples = s.samples := rfl
@[simp] theorem State.setEngine_pending (s : State) (e : EngineIndex) (v : Engine) : (s.setEngine e v).pending = s.pending := rfl
@[simp] theorem State.setEngine_entry (s : State) (e : EngineIndex) (v : Engine) (j : EntryIndex) :
    (s.setEngine e v).entry j = s.entry j := rfl
@[simp] theorem State.setEngine_din (s : State) (e : EngineIndex) (v : Engine) (m : TimingInput) :
    (s.setEngine e v).din m = s.din m := rfl
@[simp] theorem State.setEngine_correction (s : State) (e : EngineIndex) (v : Engine) (m : AnalogInput) (q : Fin 4) :
    (s.setEngine e v).correction m q = s.correction m q := rfl
@[simp] theorem State.setEngine_converter (s : State) (e : EngineIndex) (v : Engine) (d : ConverterId) :
    (s.setEngine e v).converter d = s.converter d := by cases d <;> rfl
@[simp] theorem State.setEngine_line (s : State) (e : EngineIndex) (v : Engine) (k : TrgLine) :
    (s.setEngine e v).line k = s.line k := by cases k <;> rfl
@[simp] theorem State.setEngine_attention (s : State) (e : EngineIndex) (v : Engine) (q : Port) :
    (s.setEngine e v).attention q = s.attention q := by cases q <;> rfl
@[simp] theorem State.setEngine_port (s : State) (e : EngineIndex) (v : Engine) (q : Port) :
    (s.setEngine e v).port q = s.port q := by cases q <;> rfl
@[simp] theorem State.setEngine_hold (s : State) (e : EngineIndex) (v : Engine) (q : Port) :
    (s.setEngine e v).hold q = s.hold q := by cases q <;> rfl
@[simp] theorem State.setEngine_isHeld (s : State) (e : EngineIndex) (v : Engine) :
    (s.setEngine e v).isHeld = s.isHeld := rfl

/-! ### setDin -/

@[simp] theorem State.setDin_entries (s : State) (n : TimingInput) (v : DinContext) : (s.setDin n v).entries = s.entries := rfl
@[simp] theorem State.setDin_now (s : State) (n : TimingInput) (v : DinContext) : (s.setDin n v).now = s.now := rfl
@[simp] theorem State.setDin_micro (s : State) (n : TimingInput) (v : DinContext) : (s.setDin n v).micro = s.micro := rfl
@[simp] theorem State.setDin_dueList (s : State) (n : TimingInput) (v : DinContext) : (s.setDin n v).dueList = s.dueList := rfl
@[simp] theorem State.setDin_holdA (s : State) (n : TimingInput) (v : DinContext) : (s.setDin n v).holdA = s.holdA := rfl
@[simp] theorem State.setDin_holdB (s : State) (n : TimingInput) (v : DinContext) : (s.setDin n v).holdB = s.holdB := rfl
@[simp] theorem State.setDin_trg0 (s : State) (n : TimingInput) (v : DinContext) : (s.setDin n v).trg0 = s.trg0 := rfl
@[simp] theorem State.setDin_trg1 (s : State) (n : TimingInput) (v : DinContext) : (s.setDin n v).trg1 = s.trg1 := rfl
@[simp] theorem State.setDin_conv0 (s : State) (n : TimingInput) (v : DinContext) : (s.setDin n v).conv0 = s.conv0 := rfl
@[simp] theorem State.setDin_conv1 (s : State) (n : TimingInput) (v : DinContext) : (s.setDin n v).conv1 = s.conv1 := rfl
@[simp] theorem State.setDin_check (s : State) (n : TimingInput) (v : DinContext) : (s.setDin n v).check = s.check := rfl
@[simp] theorem State.setDin_corrections (s : State) (n : TimingInput) (v : DinContext) : (s.setDin n v).corrections = s.corrections := rfl
@[simp] theorem State.setDin_engines (s : State) (n : TimingInput) (v : DinContext) : (s.setDin n v).engines = s.engines := rfl
@[simp] theorem State.setDin_waitList (s : State) (n : TimingInput) (v : DinContext) : (s.setDin n v).waitList = s.waitList := rfl
@[simp] theorem State.setDin_attentionA (s : State) (n : TimingInput) (v : DinContext) : (s.setDin n v).attentionA = s.attentionA := rfl
@[simp] theorem State.setDin_attentionB (s : State) (n : TimingInput) (v : DinContext) : (s.setDin n v).attentionB = s.attentionB := rfl
@[simp] theorem State.setDin_portA (s : State) (n : TimingInput) (v : DinContext) : (s.setDin n v).portA = s.portA := rfl
@[simp] theorem State.setDin_portB (s : State) (n : TimingInput) (v : DinContext) : (s.setDin n v).portB = s.portB := rfl
@[simp] theorem State.setDin_addressB (s : State) (n : TimingInput) (v : DinContext) : (s.setDin n v).addressB = s.addressB := rfl
@[simp] theorem State.setDin_resetAsserted (s : State) (n : TimingInput) (v : DinContext) : (s.setDin n v).resetAsserted = s.resetAsserted := rfl
@[simp] theorem State.setDin_samples (s : State) (n : TimingInput) (v : DinContext) : (s.setDin n v).samples = s.samples := rfl
@[simp] theorem State.setDin_pending (s : State) (n : TimingInput) (v : DinContext) : (s.setDin n v).pending = s.pending := rfl
@[simp] theorem State.setDin_entry (s : State) (n : TimingInput) (v : DinContext) (j : EntryIndex) :
    (s.setDin n v).entry j = s.entry j := rfl
@[simp] theorem State.setDin_engine (s : State) (n : TimingInput) (v : DinContext) (f : EngineIndex) :
    (s.setDin n v).engine f = s.engine f := rfl
@[simp] theorem State.setDin_correction (s : State) (n : TimingInput) (v : DinContext) (m : AnalogInput) (q : Fin 4) :
    (s.setDin n v).correction m q = s.correction m q := rfl
@[simp] theorem State.setDin_converter (s : State) (n : TimingInput) (v : DinContext) (d : ConverterId) :
    (s.setDin n v).converter d = s.converter d := by cases d <;> rfl
@[simp] theorem State.setDin_line (s : State) (n : TimingInput) (v : DinContext) (k : TrgLine) :
    (s.setDin n v).line k = s.line k := by cases k <;> rfl
@[simp] theorem State.setDin_attention (s : State) (n : TimingInput) (v : DinContext) (q : Port) :
    (s.setDin n v).attention q = s.attention q := by cases q <;> rfl
@[simp] theorem State.setDin_port (s : State) (n : TimingInput) (v : DinContext) (q : Port) :
    (s.setDin n v).port q = s.port q := by cases q <;> rfl
@[simp] theorem State.setDin_hold (s : State) (n : TimingInput) (v : DinContext) (q : Port) :
    (s.setDin n v).hold q = s.hold q := by cases q <;> rfl
@[simp] theorem State.setDin_isHeld (s : State) (n : TimingInput) (v : DinContext) :
    (s.setDin n v).isHeld = s.isHeld := rfl

/-! ### setCorrection -/

@[simp] theorem State.setCorrection_entries (s : State) (n : AnalogInput) (r : Fin 4) (v : Correction) : (s.setCorrection n r v).entries = s.entries := rfl
@[simp] theorem State.setCorrection_now (s : State) (n : AnalogInput) (r : Fin 4) (v : Correction) : (s.setCorrection n r v).now = s.now := rfl
@[simp] theorem State.setCorrection_micro (s : State) (n : AnalogInput) (r : Fin 4) (v : Correction) : (s.setCorrection n r v).micro = s.micro := rfl
@[simp] theorem State.setCorrection_dueList (s : State) (n : AnalogInput) (r : Fin 4) (v : Correction) : (s.setCorrection n r v).dueList = s.dueList := rfl
@[simp] theorem State.setCorrection_holdA (s : State) (n : AnalogInput) (r : Fin 4) (v : Correction) : (s.setCorrection n r v).holdA = s.holdA := rfl
@[simp] theorem State.setCorrection_holdB (s : State) (n : AnalogInput) (r : Fin 4) (v : Correction) : (s.setCorrection n r v).holdB = s.holdB := rfl
@[simp] theorem State.setCorrection_trg0 (s : State) (n : AnalogInput) (r : Fin 4) (v : Correction) : (s.setCorrection n r v).trg0 = s.trg0 := rfl
@[simp] theorem State.setCorrection_trg1 (s : State) (n : AnalogInput) (r : Fin 4) (v : Correction) : (s.setCorrection n r v).trg1 = s.trg1 := rfl
@[simp] theorem State.setCorrection_conv0 (s : State) (n : AnalogInput) (r : Fin 4) (v : Correction) : (s.setCorrection n r v).conv0 = s.conv0 := rfl
@[simp] theorem State.setCorrection_conv1 (s : State) (n : AnalogInput) (r : Fin 4) (v : Correction) : (s.setCorrection n r v).conv1 = s.conv1 := rfl
@[simp] theorem State.setCorrection_check (s : State) (n : AnalogInput) (r : Fin 4) (v : Correction) : (s.setCorrection n r v).check = s.check := rfl
@[simp] theorem State.setCorrection_dins (s : State) (n : AnalogInput) (r : Fin 4) (v : Correction) : (s.setCorrection n r v).dins = s.dins := rfl
@[simp] theorem State.setCorrection_engines (s : State) (n : AnalogInput) (r : Fin 4) (v : Correction) : (s.setCorrection n r v).engines = s.engines := rfl
@[simp] theorem State.setCorrection_waitList (s : State) (n : AnalogInput) (r : Fin 4) (v : Correction) : (s.setCorrection n r v).waitList = s.waitList := rfl
@[simp] theorem State.setCorrection_attentionA (s : State) (n : AnalogInput) (r : Fin 4) (v : Correction) : (s.setCorrection n r v).attentionA = s.attentionA := rfl
@[simp] theorem State.setCorrection_attentionB (s : State) (n : AnalogInput) (r : Fin 4) (v : Correction) : (s.setCorrection n r v).attentionB = s.attentionB := rfl
@[simp] theorem State.setCorrection_portA (s : State) (n : AnalogInput) (r : Fin 4) (v : Correction) : (s.setCorrection n r v).portA = s.portA := rfl
@[simp] theorem State.setCorrection_portB (s : State) (n : AnalogInput) (r : Fin 4) (v : Correction) : (s.setCorrection n r v).portB = s.portB := rfl
@[simp] theorem State.setCorrection_addressB (s : State) (n : AnalogInput) (r : Fin 4) (v : Correction) : (s.setCorrection n r v).addressB = s.addressB := rfl
@[simp] theorem State.setCorrection_resetAsserted (s : State) (n : AnalogInput) (r : Fin 4) (v : Correction) : (s.setCorrection n r v).resetAsserted = s.resetAsserted := rfl
@[simp] theorem State.setCorrection_samples (s : State) (n : AnalogInput) (r : Fin 4) (v : Correction) : (s.setCorrection n r v).samples = s.samples := rfl
@[simp] theorem State.setCorrection_pending (s : State) (n : AnalogInput) (r : Fin 4) (v : Correction) : (s.setCorrection n r v).pending = s.pending := rfl
@[simp] theorem State.setCorrection_entry (s : State) (n : AnalogInput) (r : Fin 4) (v : Correction) (j : EntryIndex) :
    (s.setCorrection n r v).entry j = s.entry j := rfl
@[simp] theorem State.setCorrection_engine (s : State) (n : AnalogInput) (r : Fin 4) (v : Correction) (f : EngineIndex) :
    (s.setCorrection n r v).engine f = s.engine f := rfl
@[simp] theorem State.setCorrection_din (s : State) (n : AnalogInput) (r : Fin 4) (v : Correction) (m : TimingInput) :
    (s.setCorrection n r v).din m = s.din m := rfl
@[simp] theorem State.setCorrection_converter (s : State) (n : AnalogInput) (r : Fin 4) (v : Correction) (d : ConverterId) :
    (s.setCorrection n r v).converter d = s.converter d := by cases d <;> rfl
@[simp] theorem State.setCorrection_line (s : State) (n : AnalogInput) (r : Fin 4) (v : Correction) (k : TrgLine) :
    (s.setCorrection n r v).line k = s.line k := by cases k <;> rfl
@[simp] theorem State.setCorrection_attention (s : State) (n : AnalogInput) (r : Fin 4) (v : Correction) (q : Port) :
    (s.setCorrection n r v).attention q = s.attention q := by cases q <;> rfl
@[simp] theorem State.setCorrection_port (s : State) (n : AnalogInput) (r : Fin 4) (v : Correction) (q : Port) :
    (s.setCorrection n r v).port q = s.port q := by cases q <;> rfl
@[simp] theorem State.setCorrection_hold (s : State) (n : AnalogInput) (r : Fin 4) (v : Correction) (q : Port) :
    (s.setCorrection n r v).hold q = s.hold q := by cases q <;> rfl
@[simp] theorem State.setCorrection_isHeld (s : State) (n : AnalogInput) (r : Fin 4) (v : Correction) :
    (s.setCorrection n r v).isHeld = s.isHeld := rfl

/-! ### setConverter -/

@[simp] theorem State.setConverter_entries (s : State) (c : ConverterId) (v : Converter) : (s.setConverter c v).entries = s.entries := by cases c <;> rfl
@[simp] theorem State.setConverter_now (s : State) (c : ConverterId) (v : Converter) : (s.setConverter c v).now = s.now := by cases c <;> rfl
@[simp] theorem State.setConverter_micro (s : State) (c : ConverterId) (v : Converter) : (s.setConverter c v).micro = s.micro := by cases c <;> rfl
@[simp] theorem State.setConverter_dueList (s : State) (c : ConverterId) (v : Converter) : (s.setConverter c v).dueList = s.dueList := by cases c <;> rfl
@[simp] theorem State.setConverter_holdA (s : State) (c : ConverterId) (v : Converter) : (s.setConverter c v).holdA = s.holdA := by cases c <;> rfl
@[simp] theorem State.setConverter_holdB (s : State) (c : ConverterId) (v : Converter) : (s.setConverter c v).holdB = s.holdB := by cases c <;> rfl
@[simp] theorem State.setConverter_trg0 (s : State) (c : ConverterId) (v : Converter) : (s.setConverter c v).trg0 = s.trg0 := by cases c <;> rfl
@[simp] theorem State.setConverter_trg1 (s : State) (c : ConverterId) (v : Converter) : (s.setConverter c v).trg1 = s.trg1 := by cases c <;> rfl
@[simp] theorem State.setConverter_check (s : State) (c : ConverterId) (v : Converter) : (s.setConverter c v).check = s.check := by cases c <;> rfl
@[simp] theorem State.setConverter_corrections (s : State) (c : ConverterId) (v : Converter) : (s.setConverter c v).corrections = s.corrections := by cases c <;> rfl
@[simp] theorem State.setConverter_dins (s : State) (c : ConverterId) (v : Converter) : (s.setConverter c v).dins = s.dins := by cases c <;> rfl
@[simp] theorem State.setConverter_engines (s : State) (c : ConverterId) (v : Converter) : (s.setConverter c v).engines = s.engines := by cases c <;> rfl
@[simp] theorem State.setConverter_waitList (s : State) (c : ConverterId) (v : Converter) : (s.setConverter c v).waitList = s.waitList := by cases c <;> rfl
@[simp] theorem State.setConverter_attentionA (s : State) (c : ConverterId) (v : Converter) : (s.setConverter c v).attentionA = s.attentionA := by cases c <;> rfl
@[simp] theorem State.setConverter_attentionB (s : State) (c : ConverterId) (v : Converter) : (s.setConverter c v).attentionB = s.attentionB := by cases c <;> rfl
@[simp] theorem State.setConverter_portA (s : State) (c : ConverterId) (v : Converter) : (s.setConverter c v).portA = s.portA := by cases c <;> rfl
@[simp] theorem State.setConverter_portB (s : State) (c : ConverterId) (v : Converter) : (s.setConverter c v).portB = s.portB := by cases c <;> rfl
@[simp] theorem State.setConverter_addressB (s : State) (c : ConverterId) (v : Converter) : (s.setConverter c v).addressB = s.addressB := by cases c <;> rfl
@[simp] theorem State.setConverter_resetAsserted (s : State) (c : ConverterId) (v : Converter) : (s.setConverter c v).resetAsserted = s.resetAsserted := by cases c <;> rfl
@[simp] theorem State.setConverter_samples (s : State) (c : ConverterId) (v : Converter) : (s.setConverter c v).samples = s.samples := by cases c <;> rfl
@[simp] theorem State.setConverter_pending (s : State) (c : ConverterId) (v : Converter) : (s.setConverter c v).pending = s.pending := by cases c <;> rfl
@[simp] theorem State.setConverter_entry (s : State) (c : ConverterId) (v : Converter) (j : EntryIndex) :
    (s.setConverter c v).entry j = s.entry j := by cases c <;> rfl
@[simp] theorem State.setConverter_engine (s : State) (c : ConverterId) (v : Converter) (f : EngineIndex) :
    (s.setConverter c v).engine f = s.engine f := by cases c <;> rfl
@[simp] theorem State.setConverter_din (s : State) (c : ConverterId) (v : Converter) (m : TimingInput) :
    (s.setConverter c v).din m = s.din m := by cases c <;> rfl
@[simp] theorem State.setConverter_correction (s : State) (c : ConverterId) (v : Converter) (m : AnalogInput) (q : Fin 4) :
    (s.setConverter c v).correction m q = s.correction m q := by cases c <;> rfl
@[simp] theorem State.setConverter_line (s : State) (c : ConverterId) (v : Converter) (k : TrgLine) :
    (s.setConverter c v).line k = s.line k := by cases c <;> cases k <;> rfl
@[simp] theorem State.setConverter_attention (s : State) (c : ConverterId) (v : Converter) (q : Port) :
    (s.setConverter c v).attention q = s.attention q := by cases c <;> cases q <;> rfl
@[simp] theorem State.setConverter_port (s : State) (c : ConverterId) (v : Converter) (q : Port) :
    (s.setConverter c v).port q = s.port q := by cases c <;> cases q <;> rfl
@[simp] theorem State.setConverter_hold (s : State) (c : ConverterId) (v : Converter) (q : Port) :
    (s.setConverter c v).hold q = s.hold q := by cases c <;> cases q <;> rfl
@[simp] theorem State.setConverter_isHeld (s : State) (c : ConverterId) (v : Converter) :
    (s.setConverter c v).isHeld = s.isHeld := by cases c <;> rfl

/-! ### setLine -/

@[simp] theorem State.setLine_entries (s : State) (l : TrgLine) (v : TrgContext) : (s.setLine l v).entries = s.entries := by cases l <;> rfl
@[simp] theorem State.setLine_now (s : State) (l : TrgLine) (v : TrgContext) : (s.setLine l v).now = s.now := by cases l <;> rfl
@[simp] theorem State.setLine_micro (s : State) (l : TrgLine) (v : TrgContext) : (s.setLine l v).micro = s.micro := by cases l <;> rfl
@[simp] theorem State.setLine_dueList (s : State) (l : TrgLine) (v : TrgContext) : (s.setLine l v).dueList = s.dueList := by cases l <;> rfl
@[simp] theorem State.setLine_holdA (s : State) (l : TrgLine) (v : TrgContext) : (s.setLine l v).holdA = s.holdA := by cases l <;> rfl
@[simp] theorem State.setLine_holdB (s : State) (l : TrgLine) (v : TrgContext) : (s.setLine l v).holdB = s.holdB := by cases l <;> rfl
@[simp] theorem State.setLine_conv0 (s : State) (l : TrgLine) (v : TrgContext) : (s.setLine l v).conv0 = s.conv0 := by cases l <;> rfl
@[simp] theorem State.setLine_conv1 (s : State) (l : TrgLine) (v : TrgContext) : (s.setLine l v).conv1 = s.conv1 := by cases l <;> rfl
@[simp] theorem State.setLine_check (s : State) (l : TrgLine) (v : TrgContext) : (s.setLine l v).check = s.check := by cases l <;> rfl
@[simp] theorem State.setLine_corrections (s : State) (l : TrgLine) (v : TrgContext) : (s.setLine l v).corrections = s.corrections := by cases l <;> rfl
@[simp] theorem State.setLine_dins (s : State) (l : TrgLine) (v : TrgContext) : (s.setLine l v).dins = s.dins := by cases l <;> rfl
@[simp] theorem State.setLine_engines (s : State) (l : TrgLine) (v : TrgContext) : (s.setLine l v).engines = s.engines := by cases l <;> rfl
@[simp] theorem State.setLine_waitList (s : State) (l : TrgLine) (v : TrgContext) : (s.setLine l v).waitList = s.waitList := by cases l <;> rfl
@[simp] theorem State.setLine_attentionA (s : State) (l : TrgLine) (v : TrgContext) : (s.setLine l v).attentionA = s.attentionA := by cases l <;> rfl
@[simp] theorem State.setLine_attentionB (s : State) (l : TrgLine) (v : TrgContext) : (s.setLine l v).attentionB = s.attentionB := by cases l <;> rfl
@[simp] theorem State.setLine_portA (s : State) (l : TrgLine) (v : TrgContext) : (s.setLine l v).portA = s.portA := by cases l <;> rfl
@[simp] theorem State.setLine_portB (s : State) (l : TrgLine) (v : TrgContext) : (s.setLine l v).portB = s.portB := by cases l <;> rfl
@[simp] theorem State.setLine_addressB (s : State) (l : TrgLine) (v : TrgContext) : (s.setLine l v).addressB = s.addressB := by cases l <;> rfl
@[simp] theorem State.setLine_resetAsserted (s : State) (l : TrgLine) (v : TrgContext) : (s.setLine l v).resetAsserted = s.resetAsserted := by cases l <;> rfl
@[simp] theorem State.setLine_samples (s : State) (l : TrgLine) (v : TrgContext) : (s.setLine l v).samples = s.samples := by cases l <;> rfl
@[simp] theorem State.setLine_pending (s : State) (l : TrgLine) (v : TrgContext) : (s.setLine l v).pending = s.pending := by cases l <;> rfl
@[simp] theorem State.setLine_entry (s : State) (l : TrgLine) (v : TrgContext) (j : EntryIndex) :
    (s.setLine l v).entry j = s.entry j := by cases l <;> rfl
@[simp] theorem State.setLine_engine (s : State) (l : TrgLine) (v : TrgContext) (f : EngineIndex) :
    (s.setLine l v).engine f = s.engine f := by cases l <;> rfl
@[simp] theorem State.setLine_din (s : State) (l : TrgLine) (v : TrgContext) (m : TimingInput) :
    (s.setLine l v).din m = s.din m := by cases l <;> rfl
@[simp] theorem State.setLine_correction (s : State) (l : TrgLine) (v : TrgContext) (m : AnalogInput) (q : Fin 4) :
    (s.setLine l v).correction m q = s.correction m q := by cases l <;> rfl
@[simp] theorem State.setLine_converter (s : State) (l : TrgLine) (v : TrgContext) (d : ConverterId) :
    (s.setLine l v).converter d = s.converter d := by cases l <;> cases d <;> rfl
@[simp] theorem State.setLine_attention (s : State) (l : TrgLine) (v : TrgContext) (q : Port) :
    (s.setLine l v).attention q = s.attention q := by cases l <;> cases q <;> rfl
@[simp] theorem State.setLine_port (s : State) (l : TrgLine) (v : TrgContext) (q : Port) :
    (s.setLine l v).port q = s.port q := by cases l <;> cases q <;> rfl
@[simp] theorem State.setLine_hold (s : State) (l : TrgLine) (v : TrgContext) (q : Port) :
    (s.setLine l v).hold q = s.hold q := by cases l <;> cases q <;> rfl
@[simp] theorem State.setLine_isHeld (s : State) (l : TrgLine) (v : TrgContext) :
    (s.setLine l v).isHeld = s.isHeld := by cases l <;> rfl

/-! ### setAttention -/

@[simp] theorem State.setAttention_entries (s : State) (p : Port) (v : Attention) : (s.setAttention p v).entries = s.entries := by cases p <;> rfl
@[simp] theorem State.setAttention_now (s : State) (p : Port) (v : Attention) : (s.setAttention p v).now = s.now := by cases p <;> rfl
@[simp] theorem State.setAttention_micro (s : State) (p : Port) (v : Attention) : (s.setAttention p v).micro = s.micro := by cases p <;> rfl
@[simp] theorem State.setAttention_dueList (s : State) (p : Port) (v : Attention) : (s.setAttention p v).dueList = s.dueList := by cases p <;> rfl
@[simp] theorem State.setAttention_holdA (s : State) (p : Port) (v : Attention) : (s.setAttention p v).holdA = s.holdA := by cases p <;> rfl
@[simp] theorem State.setAttention_holdB (s : State) (p : Port) (v : Attention) : (s.setAttention p v).holdB = s.holdB := by cases p <;> rfl
@[simp] theorem State.setAttention_trg0 (s : State) (p : Port) (v : Attention) : (s.setAttention p v).trg0 = s.trg0 := by cases p <;> rfl
@[simp] theorem State.setAttention_trg1 (s : State) (p : Port) (v : Attention) : (s.setAttention p v).trg1 = s.trg1 := by cases p <;> rfl
@[simp] theorem State.setAttention_conv0 (s : State) (p : Port) (v : Attention) : (s.setAttention p v).conv0 = s.conv0 := by cases p <;> rfl
@[simp] theorem State.setAttention_conv1 (s : State) (p : Port) (v : Attention) : (s.setAttention p v).conv1 = s.conv1 := by cases p <;> rfl
@[simp] theorem State.setAttention_check (s : State) (p : Port) (v : Attention) : (s.setAttention p v).check = s.check := by cases p <;> rfl
@[simp] theorem State.setAttention_corrections (s : State) (p : Port) (v : Attention) : (s.setAttention p v).corrections = s.corrections := by cases p <;> rfl
@[simp] theorem State.setAttention_dins (s : State) (p : Port) (v : Attention) : (s.setAttention p v).dins = s.dins := by cases p <;> rfl
@[simp] theorem State.setAttention_engines (s : State) (p : Port) (v : Attention) : (s.setAttention p v).engines = s.engines := by cases p <;> rfl
@[simp] theorem State.setAttention_waitList (s : State) (p : Port) (v : Attention) : (s.setAttention p v).waitList = s.waitList := by cases p <;> rfl
@[simp] theorem State.setAttention_portA (s : State) (p : Port) (v : Attention) : (s.setAttention p v).portA = s.portA := by cases p <;> rfl
@[simp] theorem State.setAttention_portB (s : State) (p : Port) (v : Attention) : (s.setAttention p v).portB = s.portB := by cases p <;> rfl
@[simp] theorem State.setAttention_addressB (s : State) (p : Port) (v : Attention) : (s.setAttention p v).addressB = s.addressB := by cases p <;> rfl
@[simp] theorem State.setAttention_resetAsserted (s : State) (p : Port) (v : Attention) : (s.setAttention p v).resetAsserted = s.resetAsserted := by cases p <;> rfl
@[simp] theorem State.setAttention_samples (s : State) (p : Port) (v : Attention) : (s.setAttention p v).samples = s.samples := by cases p <;> rfl
@[simp] theorem State.setAttention_pending (s : State) (p : Port) (v : Attention) : (s.setAttention p v).pending = s.pending := by cases p <;> rfl
@[simp] theorem State.setAttention_entry (s : State) (p : Port) (v : Attention) (j : EntryIndex) :
    (s.setAttention p v).entry j = s.entry j := by cases p <;> rfl
@[simp] theorem State.setAttention_engine (s : State) (p : Port) (v : Attention) (f : EngineIndex) :
    (s.setAttention p v).engine f = s.engine f := by cases p <;> rfl
@[simp] theorem State.setAttention_din (s : State) (p : Port) (v : Attention) (m : TimingInput) :
    (s.setAttention p v).din m = s.din m := by cases p <;> rfl
@[simp] theorem State.setAttention_correction (s : State) (p : Port) (v : Attention) (m : AnalogInput) (q : Fin 4) :
    (s.setAttention p v).correction m q = s.correction m q := by cases p <;> rfl
@[simp] theorem State.setAttention_converter (s : State) (p : Port) (v : Attention) (d : ConverterId) :
    (s.setAttention p v).converter d = s.converter d := by cases p <;> cases d <;> rfl
@[simp] theorem State.setAttention_line (s : State) (p : Port) (v : Attention) (k : TrgLine) :
    (s.setAttention p v).line k = s.line k := by cases p <;> cases k <;> rfl
@[simp] theorem State.setAttention_port (s : State) (p : Port) (v : Attention) (q : Port) :
    (s.setAttention p v).port q = s.port q := by cases p <;> cases q <;> rfl
@[simp] theorem State.setAttention_hold (s : State) (p : Port) (v : Attention) (q : Port) :
    (s.setAttention p v).hold q = s.hold q := by cases p <;> cases q <;> rfl
@[simp] theorem State.setAttention_isHeld (s : State) (p : Port) (v : Attention) :
    (s.setAttention p v).isHeld = s.isHeld := by cases p <;> rfl

/-! ### setPort -/

@[simp] theorem State.setPort_entries (s : State) (p : Port) (v : PortState) : (s.setPort p v).entries = s.entries := by cases p <;> rfl
@[simp] theorem State.setPort_now (s : State) (p : Port) (v : PortState) : (s.setPort p v).now = s.now := by cases p <;> rfl
@[simp] theorem State.setPort_micro (s : State) (p : Port) (v : PortState) : (s.setPort p v).micro = s.micro := by cases p <;> rfl
@[simp] theorem State.setPort_dueList (s : State) (p : Port) (v : PortState) : (s.setPort p v).dueList = s.dueList := by cases p <;> rfl
@[simp] theorem State.setPort_holdA (s : State) (p : Port) (v : PortState) : (s.setPort p v).holdA = s.holdA := by cases p <;> rfl
@[simp] theorem State.setPort_holdB (s : State) (p : Port) (v : PortState) : (s.setPort p v).holdB = s.holdB := by cases p <;> rfl
@[simp] theorem State.setPort_trg0 (s : State) (p : Port) (v : PortState) : (s.setPort p v).trg0 = s.trg0 := by cases p <;> rfl
@[simp] theorem State.setPort_trg1 (s : State) (p : Port) (v : PortState) : (s.setPort p v).trg1 = s.trg1 := by cases p <;> rfl
@[simp] theorem State.setPort_conv0 (s : State) (p : Port) (v : PortState) : (s.setPort p v).conv0 = s.conv0 := by cases p <;> rfl
@[simp] theorem State.setPort_conv1 (s : State) (p : Port) (v : PortState) : (s.setPort p v).conv1 = s.conv1 := by cases p <;> rfl
@[simp] theorem State.setPort_check (s : State) (p : Port) (v : PortState) : (s.setPort p v).check = s.check := by cases p <;> rfl
@[simp] theorem State.setPort_corrections (s : State) (p : Port) (v : PortState) : (s.setPort p v).corrections = s.corrections := by cases p <;> rfl
@[simp] theorem State.setPort_dins (s : State) (p : Port) (v : PortState) : (s.setPort p v).dins = s.dins := by cases p <;> rfl
@[simp] theorem State.setPort_engines (s : State) (p : Port) (v : PortState) : (s.setPort p v).engines = s.engines := by cases p <;> rfl
@[simp] theorem State.setPort_waitList (s : State) (p : Port) (v : PortState) : (s.setPort p v).waitList = s.waitList := by cases p <;> rfl
@[simp] theorem State.setPort_attentionA (s : State) (p : Port) (v : PortState) : (s.setPort p v).attentionA = s.attentionA := by cases p <;> rfl
@[simp] theorem State.setPort_attentionB (s : State) (p : Port) (v : PortState) : (s.setPort p v).attentionB = s.attentionB := by cases p <;> rfl
@[simp] theorem State.setPort_addressB (s : State) (p : Port) (v : PortState) : (s.setPort p v).addressB = s.addressB := by cases p <;> rfl
@[simp] theorem State.setPort_resetAsserted (s : State) (p : Port) (v : PortState) : (s.setPort p v).resetAsserted = s.resetAsserted := by cases p <;> rfl
@[simp] theorem State.setPort_samples (s : State) (p : Port) (v : PortState) : (s.setPort p v).samples = s.samples := by cases p <;> rfl
@[simp] theorem State.setPort_pending (s : State) (p : Port) (v : PortState) : (s.setPort p v).pending = s.pending := by cases p <;> rfl
@[simp] theorem State.setPort_entry (s : State) (p : Port) (v : PortState) (j : EntryIndex) :
    (s.setPort p v).entry j = s.entry j := by cases p <;> rfl
@[simp] theorem State.setPort_engine (s : State) (p : Port) (v : PortState) (f : EngineIndex) :
    (s.setPort p v).engine f = s.engine f := by cases p <;> rfl
@[simp] theorem State.setPort_din (s : State) (p : Port) (v : PortState) (m : TimingInput) :
    (s.setPort p v).din m = s.din m := by cases p <;> rfl
@[simp] theorem State.setPort_correction (s : State) (p : Port) (v : PortState) (m : AnalogInput) (q : Fin 4) :
    (s.setPort p v).correction m q = s.correction m q := by cases p <;> rfl
@[simp] theorem State.setPort_converter (s : State) (p : Port) (v : PortState) (d : ConverterId) :
    (s.setPort p v).converter d = s.converter d := by cases p <;> cases d <;> rfl
@[simp] theorem State.setPort_line (s : State) (p : Port) (v : PortState) (k : TrgLine) :
    (s.setPort p v).line k = s.line k := by cases p <;> cases k <;> rfl
@[simp] theorem State.setPort_attention (s : State) (p : Port) (v : PortState) (q : Port) :
    (s.setPort p v).attention q = s.attention q := by cases p <;> cases q <;> rfl
@[simp] theorem State.setPort_hold (s : State) (p : Port) (v : PortState) (q : Port) :
    (s.setPort p v).hold q = s.hold q := by cases p <;> cases q <;> rfl
@[simp] theorem State.setPort_isHeld (s : State) (p : Port) (v : PortState) :
    (s.setPort p v).isHeld = s.isHeld := by cases p <;> rfl

/-! ### setHold -/

@[simp] theorem State.setHold_entries (s : State) (p : Port) (v : Bool) : (s.setHold p v).entries = s.entries := by cases p <;> rfl
@[simp] theorem State.setHold_now (s : State) (p : Port) (v : Bool) : (s.setHold p v).now = s.now := by cases p <;> rfl
@[simp] theorem State.setHold_micro (s : State) (p : Port) (v : Bool) : (s.setHold p v).micro = s.micro := by cases p <;> rfl
@[simp] theorem State.setHold_dueList (s : State) (p : Port) (v : Bool) : (s.setHold p v).dueList = s.dueList := by cases p <;> rfl
@[simp] theorem State.setHold_trg0 (s : State) (p : Port) (v : Bool) : (s.setHold p v).trg0 = s.trg0 := by cases p <;> rfl
@[simp] theorem State.setHold_trg1 (s : State) (p : Port) (v : Bool) : (s.setHold p v).trg1 = s.trg1 := by cases p <;> rfl
@[simp] theorem State.setHold_conv0 (s : State) (p : Port) (v : Bool) : (s.setHold p v).conv0 = s.conv0 := by cases p <;> rfl
@[simp] theorem State.setHold_conv1 (s : State) (p : Port) (v : Bool) : (s.setHold p v).conv1 = s.conv1 := by cases p <;> rfl
@[simp] theorem State.setHold_check (s : State) (p : Port) (v : Bool) : (s.setHold p v).check = s.check := by cases p <;> rfl
@[simp] theorem State.setHold_corrections (s : State) (p : Port) (v : Bool) : (s.setHold p v).corrections = s.corrections := by cases p <;> rfl
@[simp] theorem State.setHold_dins (s : State) (p : Port) (v : Bool) : (s.setHold p v).dins = s.dins := by cases p <;> rfl
@[simp] theorem State.setHold_engines (s : State) (p : Port) (v : Bool) : (s.setHold p v).engines = s.engines := by cases p <;> rfl
@[simp] theorem State.setHold_waitList (s : State) (p : Port) (v : Bool) : (s.setHold p v).waitList = s.waitList := by cases p <;> rfl
@[simp] theorem State.setHold_attentionA (s : State) (p : Port) (v : Bool) : (s.setHold p v).attentionA = s.attentionA := by cases p <;> rfl
@[simp] theorem State.setHold_attentionB (s : State) (p : Port) (v : Bool) : (s.setHold p v).attentionB = s.attentionB := by cases p <;> rfl
@[simp] theorem State.setHold_portA (s : State) (p : Port) (v : Bool) : (s.setHold p v).portA = s.portA := by cases p <;> rfl
@[simp] theorem State.setHold_portB (s : State) (p : Port) (v : Bool) : (s.setHold p v).portB = s.portB := by cases p <;> rfl
@[simp] theorem State.setHold_addressB (s : State) (p : Port) (v : Bool) : (s.setHold p v).addressB = s.addressB := by cases p <;> rfl
@[simp] theorem State.setHold_resetAsserted (s : State) (p : Port) (v : Bool) : (s.setHold p v).resetAsserted = s.resetAsserted := by cases p <;> rfl
@[simp] theorem State.setHold_samples (s : State) (p : Port) (v : Bool) : (s.setHold p v).samples = s.samples := by cases p <;> rfl
@[simp] theorem State.setHold_pending (s : State) (p : Port) (v : Bool) : (s.setHold p v).pending = s.pending := by cases p <;> rfl
@[simp] theorem State.setHold_entry (s : State) (p : Port) (v : Bool) (j : EntryIndex) :
    (s.setHold p v).entry j = s.entry j := by cases p <;> rfl
@[simp] theorem State.setHold_engine (s : State) (p : Port) (v : Bool) (f : EngineIndex) :
    (s.setHold p v).engine f = s.engine f := by cases p <;> rfl
@[simp] theorem State.setHold_din (s : State) (p : Port) (v : Bool) (m : TimingInput) :
    (s.setHold p v).din m = s.din m := by cases p <;> rfl
@[simp] theorem State.setHold_correction (s : State) (p : Port) (v : Bool) (m : AnalogInput) (q : Fin 4) :
    (s.setHold p v).correction m q = s.correction m q := by cases p <;> rfl
@[simp] theorem State.setHold_converter (s : State) (p : Port) (v : Bool) (d : ConverterId) :
    (s.setHold p v).converter d = s.converter d := by cases p <;> cases d <;> rfl
@[simp] theorem State.setHold_line (s : State) (p : Port) (v : Bool) (k : TrgLine) :
    (s.setHold p v).line k = s.line k := by cases p <;> cases k <;> rfl
@[simp] theorem State.setHold_attention (s : State) (p : Port) (v : Bool) (q : Port) :
    (s.setHold p v).attention q = s.attention q := by cases p <;> cases q <;> rfl
@[simp] theorem State.setHold_port (s : State) (p : Port) (v : Bool) (q : Port) :
    (s.setHold p v).port q = s.port q := by cases p <;> cases q <;> rfl

/-! ### A read after a write of the same kind -/

@[simp] theorem State.entry_setEntry (s : State) (i j : EntryIndex) (v : Entry) :
    (s.setEntry i v).entry j = if i = j then v else s.entry j := by
  simp [State.entry, State.setEntry, Vector.getElem_set, Fin.ext_iff]

@[simp] theorem State.engine_setEngine (s : State) (e f : EngineIndex) (v : Engine) :
    (s.setEngine e v).engine f = if e = f then v else s.engine f := by
  simp [State.engine, State.setEngine, Vector.getElem_set, Fin.ext_iff]

@[simp] theorem State.din_setDin (s : State) (n m : TimingInput) (v : DinContext) :
    (s.setDin n v).din m = if n = m then v else s.din m := by
  simp [State.din, State.setDin, Vector.getElem_set, Fin.ext_iff]

@[simp] theorem State.converter_setConverter (s : State) (c d : ConverterId) (v : Converter) :
    (s.setConverter c v).converter d = if c = d then v else s.converter d := by
  cases c <;> cases d <;> simp [State.converter, State.setConverter]

@[simp] theorem State.line_setLine (s : State) (l k : TrgLine) (v : TrgContext) :
    (s.setLine l v).line k = if l = k then v else s.line k := by
  cases l <;> cases k <;> simp [State.line, State.setLine]

@[simp] theorem State.attention_setAttention (s : State) (p q : Port) (v : Attention) :
    (s.setAttention p v).attention q = if p = q then v else s.attention q := by
  cases p <;> cases q <;> simp [State.attention, State.setAttention]

@[simp] theorem State.port_setPort (s : State) (p q : Port) (v : PortState) :
    (s.setPort p v).port q = if p = q then v else s.port q := by
  cases p <;> cases q <;> simp [State.port, State.setPort]

@[simp] theorem State.hold_setHold (s : State) (p q : Port) (v : Bool) :
    (s.setHold p v).hold q = if p = q then v else s.hold q := by
  cases p <;> cases q <;> simp [State.hold, State.setHold]

theorem correctionIndex_inj (n m : AnalogInput) (r q : Fin 4) :
    correctionIndex n r = correctionIndex m q ↔ n = m ∧ r = q := by
  simp only [correctionIndex, Fin.ext_iff]
  omega

@[simp] theorem State.correction_setCorrection (s : State) (n m : AnalogInput) (r q : Fin 4) (v : Correction) :
    (s.setCorrection n r v).correction m q = if n = m ∧ r = q then v else s.correction m q := by
  have h := correctionIndex_inj n m r q
  simp only [Fin.ext_iff] at h
  simp only [State.correction, State.setCorrection, Fin.getElem_fin, Vector.getElem_set, Fin.ext_iff, h]

/-! ### A second write of the same kind -/

@[simp] theorem State.setEntry_setEntry (s : State) (i : EntryIndex) (v w : Entry) :
    (s.setEntry i v).setEntry i w = s.setEntry i w := by simp [State.setEntry]

@[simp] theorem State.setEntry_self (s : State) (i : EntryIndex) : s.setEntry i (s.entry i) = s := by
  simp [State.setEntry, State.entry]

@[simp] theorem State.setEngine_setEngine (s : State) (e : EngineIndex) (v w : Engine) :
    (s.setEngine e v).setEngine e w = s.setEngine e w := by simp [State.setEngine]

@[simp] theorem State.setDin_setDin (s : State) (n : TimingInput) (v w : DinContext) :
    (s.setDin n v).setDin n w = s.setDin n w := by simp [State.setDin]

@[simp] theorem State.setDin_self (s : State) (n : TimingInput) : s.setDin n (s.din n) = s := by
  simp [State.setDin, State.din]

@[simp] theorem State.setConverter_setConverter (s : State) (c : ConverterId) (v w : Converter) :
    (s.setConverter c v).setConverter c w = s.setConverter c w := by cases c <;> rfl

@[simp] theorem State.setConverter_self (s : State) (c : ConverterId) : s.setConverter c (s.converter c) = s := by
  cases c <;> rfl

@[simp] theorem State.setLine_setLine (s : State) (l : TrgLine) (v w : TrgContext) :
    (s.setLine l v).setLine l w = s.setLine l w := by cases l <;> rfl

@[simp] theorem State.setLine_self (s : State) (l : TrgLine) : s.setLine l (s.line l) = s := by cases l <;> rfl

@[simp] theorem State.setAttention_setAttention (s : State) (p : Port) (v w : Attention) :
    (s.setAttention p v).setAttention p w = s.setAttention p w := by cases p <;> rfl

@[simp] theorem State.setAttention_self (s : State) (p : Port) : s.setAttention p (s.attention p) = s := by
  cases p <;> rfl

@[simp] theorem State.setPort_setPort (s : State) (p : Port) (v w : PortState) :
    (s.setPort p v).setPort p w = s.setPort p w := by cases p <;> rfl

@[simp] theorem State.setPort_self (s : State) (p : Port) : s.setPort p (s.port p) = s := by cases p <;> rfl

@[simp] theorem State.setHold_setHold (s : State) (p : Port) (v w : Bool) :
    (s.setHold p v).setHold p w = s.setHold p w := by cases p <;> rfl

@[simp] theorem State.setHold_self (s : State) (p : Port) : s.setHold p (s.hold p) = s := by cases p <;> rfl

end Sys2Proof.Machine
end

