-- ==== Sys2Proof/Laws/Starts.lean ====
section
/-! SUPPORT. What each shared operation of a start does, said once in the terms of Safety.lean: causes, overruns, submissions,
engine requests, starts, the due list and expiries. -/

namespace Sys2Proof.Machine

theorem State.updateWatch_of_watch {s : State} {i : EntryIndex} {w : Watch} (h : (s.entry i).watch = some w)
    (f : Watch → Watch) : s.updateWatch i f = s.withWatchAt i (f w) := by
  simp [State.updateWatch, h, State.withWatchAt]

theorem State.raise_of_watch {s : State} {i : EntryIndex} {w : Watch} (h : (s.entry i).watch = some w) (cs : CauseSet) :
    s.raise i cs = s.afterCauses i w cs := by
  simp [State.raise, h, State.addCauses, State.afterCauses]

@[simp] theorem State.withWatchAt_entry (s : State) (i j : EntryIndex) (w : Watch) :
    (s.withWatchAt i w).entry j = if i = j then { s.entry i with watch := some w } else s.entry j := by
  simp [State.withWatchAt]

theorem State.countOverrun_of_watch {s : State} {i : EntryIndex} {w : Watch} (h : (s.entry i).watch = some w) :
    s.countOverrun i = s.afterOverrun i w := by
  rw [State.countOverrun, State.updateWatch_of_watch h]
  rw [State.raise_of_watch (w := { w with dyn := { w.dyn with overruns := min 255 (w.dyn.overruns + 1) } })]
  · rfl
  · simp [advanceOverruns, Config.overrunCeiling]

/-- R54, R63. -/
theorem State.startByPolicy_spec {s : State} {i : EntryIndex} {w : Watch} (h : (s.entry i).watch = some w) :
    s.PolicyTaken i w (s.startByPolicy i w).1 (s.startByPolicy i w).2 := by
  unfold State.startByPolicy State.overrunStart
  constructor
  · intro hp
    rw [if_pos hp, State.updateWatch_of_watch h]
    exact ⟨rfl, rfl⟩
  · intro hp
    rw [if_neg (by rcases hp with hp | hp <;> simp [hp]), State.countOverrun_of_watch h]
    exact ⟨rfl, rfl⟩

theorem joinQueue_eq_none {i : EntryIndex} {n : AnalogInput} {r : Fin 4} {d : Nat} {q : List Request} :
    joinQueue i n r d q = none ↔ ∀ x ∈ q, ¬ (x.source = .ain n ∧ x.range = r ∧ x.settle = d) := by
  induction q with
  | nil => simp [joinQueue]
  | cons a q ih =>
    by_cases ha : a.joinable n r d = true
    · rw [joinQueue, if_pos ha]
      simp only [Request.joinable, Bool.and_eq_true, decide_eq_true_eq] at ha
      constructor
      · intro hc
        simp at hc
      · intro hc
        exact absurd ⟨ha.1.1, ha.1.2, ha.2⟩ (hc a (by simp))
    · rw [joinQueue, if_neg ha]
      simp only [Request.joinable, Bool.and_eq_true, decide_eq_true_eq] at ha
      simp only [Option.map_eq_none_iff, ih, List.mem_cons, forall_eq_or_imp]
      exact ⟨fun hq => ⟨fun hx => ha ⟨⟨hx.1, hx.2.1⟩, hx.2.2⟩, hq⟩, fun hq => hq.2⟩

theorem joinQueue_append {i : EntryIndex} {n : AnalogInput} {r : Fin 4} {d : Nat} {front back : List Request} {x : Request}
    (hx : x.source = .ain n ∧ x.range = r ∧ x.settle = d)
    (hf : ∀ y ∈ front, ¬ (y.source = .ain n ∧ y.range = r ∧ y.settle = d)) :
    joinQueue i n r d (front ++ x :: back) = some (front ++ { x with subscribers := insertIndex i x.subscribers } :: back) := by
  induction front with
  | nil => simp [joinQueue, Request.joinable, hx]
  | cons a q ih =>
    have ha : ¬ (a.joinable n r d = true) := by
      have := hf a (by simp)
      simp only [Request.joinable, Bool.and_eq_true, decide_eq_true_eq]
      exact fun h => this ⟨h.1.1, h.1.2, h.2⟩
    rw [List.cons_append, joinQueue, if_neg ha, ih (fun y hy => hf y (by simp [hy]))]
    rfl

/-- R55, R57, R87: the start of an idle LEVEL watch. -/
theorem State.startWork_level_spec {s : State} {i : EntryIndex} {w : Watch} (h : (s.entry i).watch = some w)
    {n : AnalogInput} {r : Fin 4} {d : Nat} (hm : w.defn.contract.measure = .level n r d) :
    s.SubmissionTaken i w n r d (s.startWork i w).1 (s.startWork i w).2 := by
  have hs : s.startWork i w = match s.submit i n r d with
      | (_, .overrun) => s.overrunStart i
      | r => r := by
    rw [State.startWork, hm] <;> rfl
  have hc : servingConverter n = if n.val < 8 then ConverterId.c0 else ConverterId.c1 := rfl
  refine ⟨?_, ?_, ?_⟩
  · intro front x back hq hx hf
    rw [hs, State.submit, hc, hq, joinQueue_append hx hf]
    exact ⟨rfl, rfl⟩
  · intro hq hl
    rw [hs, State.submit, hc, joinQueue_eq_none.mpr hq]
    simp only [if_pos (show _ < Config.queueCapacity from hl)]
    exact ⟨trivial, trivial⟩
  · intro hq hl
    rw [hs, State.submit, hc, joinQueue_eq_none.mpr hq]
    simp only [if_neg (show ¬ _ < Config.queueCapacity from Nat.not_lt.mpr hl), State.overrunStart,
      State.countOverrun_of_watch h]
    exact ⟨trivial, trivial⟩

theorem State.freeEngine_eq_none {s : State} : s.freeEngine = none ↔ ∀ e, (s.engine e).state ≠ .free := by
  simp only [State.freeEngine, allEngines, List.find?_eq_none]
  constructor
  · intro h e
    have := h e (by fin_cases e <;> simp)
    simpa using this
  · intro h e _
    simpa using h e

theorem State.freeEngine_eq_some {s : State} {e : EngineIndex} (h : (s.engine e).state = .free)
    (hl : ∀ f < e, (s.engine f).state ≠ .free) : s.freeEngine = some e := by
  have h0 := hl 0
  have h1 := hl 1
  have h2 := hl 2
  fin_cases e <;> simp_all [State.freeEngine, allEngines]

/-- R56, R123: an engine request. -/
theorem State.requestEngine_spec (s : State) (i : EntryIndex) (k : TimingKind) (n : TimingInput) (pol : Polarity)
    (span : Nat) : s.EngineRequestTaken i k n pol span (s.requestEngine i ⟨k, n, pol⟩ (span * 1000)) := by
  constructor
  · intro e he hl
    rw [State.requestEngine, State.freeEngine_eq_some he hl]
    rfl
  · intro hn
    rw [State.requestEngine, State.freeEngine_eq_none.mpr hn]

/-- R54 to R56: a start request while the scheduler is not held. -/
theorem State.startRequest_spec {s : State} {i : EntryIndex} {w : Watch} (h : (s.entry i).watch = some w) :
    s.StartTaken i w (s.startRequest i w).1 (s.startRequest i w).2 := by
  refine ⟨?_, ?_, ?_⟩
  · intro ha
    rw [State.startRequest, if_neg ha]
    exact State.startByPolicy_spec h
  · intro ha n r d hm
    rw [State.startRequest, if_pos ha]
    exact State.startWork_level_spec h hm
  · intro ha k n pol span hm
    rw [State.startRequest, if_pos ha, State.startWork, hm]
    exact ⟨State.requestEngine_spec s i k n pol span, rfl⟩

theorem insertDue_spec (before : DueMember → Bool) (m : DueMember) (l : List DueMember) :
    ∃ front back, l = front ++ back ∧ insertDue before m l = front ++ m :: back ∧ (∀ x ∈ front, before x = true) ∧
      ∀ x, back.head? = some x → before x = false := by
  induction l with
  | nil => exact ⟨[], [], rfl, rfl, by simp, by simp⟩
  | cons a l ih =>
    by_cases ha : before a = true
    · obtain ⟨front, back, hl, hi, hf, hb⟩ := ih
      refine ⟨a :: front, back, by simp [hl], by simp [insertDue, ha, hi], ?_, hb⟩
      intro x hx
      rcases List.mem_cons.mp hx with rfl | hx
      · exact ha
      · exact hf x hx
    · refine ⟨[], a :: l, rfl, by simp [insertDue, ha], by simp, ?_⟩
      intro x hx
      simp only [List.head?_cons, Option.some.injEq] at hx
      subst hx
      simpa using ha

/-- R48: which members stand before a watch that joins the list. -/
theorem State.dueBefore_iff (s : State) (m : DueMember) (i : EntryIndex) (due : DeviceTime) :
    s.dueBefore m i due = true ↔ ∀ d, (s.entry m.entry).watch.bind (·.dyn.due) = some d →
      m.lateness ≠ .onTime ∨ (s.now - d).toNat < 2 ^ 31 ∨ (d - s.now).toNat < (due - s.now).toNat ∨
        (d = due ∧ m.entry < i) := by
  unfold State.dueBefore
  cases (s.entry m.entry).watch.bind (·.dyn.due) <;> simp [reached, or_assoc]

/-- R48: a watch joins the due list. -/
theorem State.joinDueList_spec {s : State} {i : EntryIndex} {w : Watch} (h : (s.entry i).watch = some w)
    (due : DeviceTime) : s.JoinsDueList i w due (s.joinDueList i due) := by
  obtain ⟨front, back, hl, hi, hf, hb⟩ := insertDue_spec (fun m => s.dueBefore m i due) ⟨i, .onTime⟩ s.dueList
  refine ⟨front, back, hl, fun m hm _ => (s.dueBefore_iff m i due).mp (hf m hm), fun m hm _ => ?_, ?_⟩
  · have hn : ¬ s.dueBefore m i due = true := by simp [hb m hm]
    rw [State.dueBefore_iff] at hn
    push Not at hn
    obtain ⟨d, hd, hs⟩ := hn
    exact ⟨d, hd, by push Not; exact hs⟩
  · rw [State.joinDueList, State.updateWatch_of_watch h, hi]

theorem State.leaveDueList_of_watch {s : State} {i : EntryIndex} {w : Watch} (h : (s.entry i).watch = some w) :
    s.leaveDueList i =
      { s.withWatchAt i { w with dyn := { w.dyn with due := none } } with
        dueList := s.dueList.filter fun m => decide (m.entry ≠ i) } := by
  rw [State.leaveDueList, State.updateWatch_of_watch h]

theorem State.joinDueList_watch {s : State} {i : EntryIndex} {w : Watch} (h : (s.entry i).watch = some w)
    (due : DeviceTime) :
    ((s.joinDueList i due).entry i).watch = some { w with dyn := { w.dyn with due := some due } } := by
  show ((s.updateWatch i _).entry i).watch = _
  rw [State.updateWatch_of_watch h]
  simp

theorem State.afterOverrun_entry (s : State) (i : EntryIndex) (w : Watch) :
    ((s.afterOverrun i w).entry i).watch =
      some { w with dyn := { w.dyn with overruns := min 255 (w.dyn.overruns + 1) } } := by
  simp [State.afterOverrun, State.afterCauses]

/-- R50, R51: the expiry of a member of the due list. -/
theorem State.expire_spec {s : State} {i : EntryIndex} {w : Watch} {n : Nat} {due : DeviceTime}
    (ha : (s.entry i).state = .armed) (h : (s.entry i).watch = some w) (hs : w.defn.contract.start = .interval n)
    (hd : w.dyn.due = some due) (l : Lateness) : s.ExpiryTaken i w n due l (s.expire i l) := by
  have hleave : ((s.leaveDueList i).entry i).watch = some { w with dyn := { w.dyn with due := none } } := by
    rw [State.leaveDueList_of_watch h]
    show ((s.withWatchAt i _).entry i).watch = _
    simp
  have hjoin := fun t => State.joinDueList_spec hleave t
  have hw := fun t => State.joinDueList_watch hleave t
  by_cases hl : l = .late
  · subst hl
    let u := (s.leaveDueList i).joinDueList i (s.now + BitVec.ofNat 32 (n * 10))
    have hu := State.countOverrun_of_watch (hw (s.now + BitVec.ofNat 32 (n * 10)))
    have hv := State.afterOverrun_entry u i { w with dyn := { w.dyn with due := some (s.now + BitVec.ofNat 32 (n * 10)) } }
    have hexp : s.expire i .late = ((u.countOverrun i).startRequest i { w with dyn := { w.dyn with
        due := some (s.now + BitVec.ofNat 32 (n * 10)), overruns := min 255 (w.dyn.overruns + 1) } }).1 := by
      have hv' : ((u.countOverrun i).entry i).watch = _ := hu ▸ hv
      simp only [State.expire, ha, h, hs, hd, if_true]
      show (match ((u.countOverrun i).entry i).watch with
        | none => u.countOverrun i
        | some w' => ((u.countOverrun i).startRequest i w').1) = _
      rw [hv']
    let w2 : Watch := { w with dyn := { w.dyn with
      due := some (s.now + BitVec.ofNat 32 (n * 10)), overruns := min 255 (w.dyn.overruns + 1) } }
    refine ⟨u, ((u.countOverrun i).startRequest i w2).2, ?_, fun hc => absurd rfl hc, fun _ => ?_⟩
    · have := hjoin (s.now + BitVec.ofNat 32 (n * 10))
      rw [State.leaveDueList_of_watch h] at this
      exact (State.leaveDueList_of_watch h) ▸ this
    · have := State.startRequest_spec (hu ▸ hv : ((u.countOverrun i).entry i).watch = _)
      rw [hexp]
      exact hu ▸ this
  · let u := (s.leaveDueList i).joinDueList i (due + BitVec.ofNat 32 (n * 10))
    have hv := hw (due + BitVec.ofNat 32 (n * 10))
    have hexp : s.expire i l =
        (u.startRequest i { w with dyn := { w.dyn with due := some (due + BitVec.ofNat 32 (n * 10)) } }).1 := by
      simp only [State.expire, ha, h, hs, hd, if_neg hl]
      show (match (u.entry i).watch with
        | none => u
        | some w' => (u.startRequest i w').1) = _
      rw [show (u.entry i).watch = _ from hv]
    refine ⟨u, (u.startRequest i { w with dyn := { w.dyn with due := some (due + BitVec.ofNat 32 (n * 10)) } }).2, ?_,
      fun _ => ?_, fun hc => absurd hc hl⟩
    · have := hjoin (due + BitVec.ofNat 32 (n * 10))
      rw [State.leaveDueList_of_watch h] at this
      simp only [if_neg hl]
      exact (State.leaveDueList_of_watch h) ▸ this
    · rw [hexp]
      simp only [if_neg hl]
      exact State.startRequest_spec hv

end Sys2Proof.Machine
end

