-- ==== Sys2Proof/Laws/Work.lean ====
section
/-! SUPPORT. What the shared operations of converters, engines and deliveries do, said once in the terms of Safety.lean. -/

namespace Sys2Proof.Machine

/-! ### Converters -/

@[simp] theorem State.setActivity_entry (s : State) (i j : EntryIndex) (a : Activity) :
    (s.setActivity i a).entry j = if i = j then { s.entry i with activity := a } else s.entry j := by
  simp [State.setActivity]

theorem State.setActivity_frame (s : State) (i : EntryIndex) (a : Activity) :
    { s.setActivity i a with entries := s.entries } = s := rfl

/-- R84: the activities of the subscribers alone change. -/
theorem State.markConverting_spec (l : List EntryIndex) (s : State) :
    (∀ i ∈ l, (s.markConverting l).entry i = { s.entry i with activity := .converting }) ∧
    (∀ i, i ∉ l → (s.markConverting l).entry i = s.entry i) ∧
    { s.markConverting l with entries := s.entries } = s := by
  induction l generalizing s with
  | nil => exact ⟨by simp, by simp [State.markConverting], rfl⟩
  | cons j l ih =>
    have hs : s.markConverting (j :: l) = (s.setActivity j .converting).markConverting l := rfl
    obtain ⟨h1, h2, h3⟩ := ih (s.setActivity j .converting)
    rw [hs]
    refine ⟨fun i hi => ?_, fun i hi => ?_, ?_⟩
    · by_cases hl : i ∈ l
      · rw [h1 i hl]
        by_cases hj : j = i <;> simp [hj]
      · rw [h2 i hl]
        have hj : j = i := by
          rcases List.mem_cons.mp hi with h | h
          · exact h.symm
          · exact absurd h hl
        simp [hj]
    · simp only [List.mem_cons, not_or] at hi
      rw [h2 i hi.2]
      simp [Ne.symm hi.1]
    · have h4 := congrArg (fun t : State => { t with entries := s.entries }) h3
      exact h4.trans (State.setActivity_frame s j .converting)

/-- R83, R84, R95: a free converter takes its oldest request or is IDLE. -/
theorem State.takeNext_spec (s : State) (c : ConverterId) : s.TakesOldest c (s.takeNext c) := by
  constructor
  · intro hq
    cases c <;> simp only [State.takeNext, hq]
  · intro r rest hq
    let v' : Converter :=
      { s.converter c with
        state := if r.settle = 0 then .converting else .settling
        queue := rest
        current := some r
        timer := if r.settle = 0 then 6 else r.settle * 10
        delivering := none }
    have hs : s.takeNext c = (s.setConverter c v').markConverting r.subscribers := by
      rw [State.takeNext, hq]
      rfl
    obtain ⟨h1, h2, h3⟩ := State.markConverting_spec r.subscribers (s.setConverter c v')
    rw [hs]
    have hc : ((s.setConverter c v').markConverting r.subscribers).converter c = v' := by
      have := congrArg (fun t : State => t.converter c) h3
      have h4 : (s.setConverter c v').converter c = v' := by simp
      rw [← h4]
      cases c <;> exact this
    refine ⟨hc, ?_, ?_, ?_⟩
    · intro i hi
      simpa using h1 i hi
    · intro i hi
      simpa using h2 i hi
    · have h4 := congrArg (fun t : State => t.setConverter c (s.converter c)) h3
      simp only [State.setConverter_setConverter, State.setConverter_self] at h4
      have he : (s.setConverter c v').entries = s.entries := State.setConverter_entries ..
      rw [he] at h4
      exact h4

/-! ### Engines -/

theorem Watch.measurement_of_measure {w : Watch} {k : TimingKind} {n : TimingInput} {pol : Polarity} {span : Nat}
    (h : w.defn.contract.measure = .timing k n pol span) : w.measurement = some (⟨k, n, pol⟩, span * 1000) := by
  simp [Watch.measurement, h]

/-- R130: a released engine goes to the head of the wait list or is FREE. -/
theorem State.releaseEngine_spec (s : State) (e : EngineIndex) : s.EngineReleased e (s.releaseEngine e) := by
  constructor
  · intro hw
    obtain ⟨⟩ := s
    dsimp only at hw
    subst hw
    rfl
  · intro j rest w k n pol span hl hw hm
    rw [State.releaseEngine, hl, handOver, hw, Option.bind_some, Watch.measurement_of_measure hm]
    rfl

/-- R90: a request that one watch leaves. -/
theorem Request.without_eq (i : EntryIndex) (r : Request) :
    r.without i = if r.stays (fun j => decide (j = i)) then some (r.leaving fun j => decide (j = i)) else none := by
  have hf : (fun j => decide (j ≠ i)) = fun j : EntryIndex => !decide (j = i) := by
    funext j
    simp
  unfold Request.without Request.stays Request.leaving
  rw [hf]
  by_cases hi : i ∈ r.subscribers
  · have he : r.subscribers.isEmpty = false := by
      cases hs : r.subscribers with
      | nil => rw [hs] at hi; cases hi
      | cons => rfl
    rw [if_pos hi, he, Bool.false_or]
    by_cases ha : r.subscribers.any (fun j => !decide (j = i)) = true
    · have hn : ¬ r.subscribers.filter (fun j => !decide (j = i)) = [] := by
        simpa [List.filter_eq_nil_iff, List.any_eq_true] using ha
      rw [if_pos ha]
      exact if_neg hn
    · have hn : r.subscribers.filter (fun j => !decide (j = i)) = [] := by
        simpa [List.filter_eq_nil_iff, List.any_eq_true] using ha
      rw [if_neg ha]
      exact if_pos hn
  · have hl : r.subscribers.filter (fun j => !decide (j = i)) = r.subscribers := by
      rw [List.filter_eq_self]
      intro j hj
      have : j ≠ i := fun h => hi (h ▸ hj)
      simpa using this
    have hs : (r.subscribers.isEmpty || r.subscribers.any fun j => !decide (j = i)) = true := by
      cases hr : r.subscribers with
      | nil => rfl
      | cons j l =>
        rw [hr] at hi
        have : j ≠ i := fun h => hi (h ▸ List.mem_cons_self)
        simp [this]
    rw [if_neg hi, if_pos hs, hl]

/-- R90: one watch leaves a waiting queue. -/
theorem filterMap_without (i : EntryIndex) (q : List Request) :
    q.filterMap (Request.without i) = queueWithout (fun j => decide (j = i)) q := by
  unfold queueWithout
  induction q with
  | nil => rfl
  | cons r q ih =>
    rw [List.filterMap_cons, Request.without_eq, ih, List.filter_cons]
    split <;> rename_i h <;> split at h <;> simp_all

/-- R34, R90, R131: the holder of a watch's work lets it go. -/
theorem State.letGo_spec (s : State) (i : EntryIndex) : s.WorkLetGo (s.letGo i) i := by
  unfold State.WorkLetGo State.letGo
  split <;> rename_i h <;> simp only [h]
  · rw [State.unsubscribe, filterMap_without, filterMap_without]
  · rfl
  · intro e he
    refine ⟨s.releaseEngine e, State.releaseEngine_spec s e, ?_⟩
    rw [State.abandon, he]

/-! ### Deliveries -/

theorem Watch.record_eq (w : Watch) (o : Delivered) (now : DeviceTime) : w.record o now = w.recorded o now := by
  simp only [Watch.record, Watch.recorded, Outcome.recorded]
  cases o.value <;> rfl

theorem Watch.qualifyTo_keeps (w : Watch) (x : SignalClass) :
    (w.qualifyTo x).1.defn = w.defn ∧ (w.qualifyTo x).1.dyn.heldTrigger = w.dyn.heldTrigger := by
  unfold Watch.qualifyTo
  split
  · exact ⟨rfl, rfl⟩
  · split <;> exact ⟨rfl, rfl⟩

theorem Watch.judge_keeps (w : Watch) (o : Delivered) :
    (w.judge o).1.defn = w.defn ∧ (w.judge o).1.dyn.heldTrigger = w.dyn.heldTrigger := by
  unfold Watch.judge
  split
  · exact ⟨rfl, rfl⟩
  · split
    · exact ⟨rfl, rfl⟩
    · exact Watch.qualifyTo_keeps w _

/-- A delivery keeps the contract, the owner and the held trigger. -/
theorem Watch.deliver_keeps (w : Watch) (o : Delivered) (now : DeviceTime) :
    (w.deliver o now).1.defn.contract = w.defn.contract ∧ (w.deliver o now).1.defn.owner = w.defn.owner ∧
    (w.deliver o now).1.dyn.heldTrigger = w.dyn.heldTrigger := by
  have h := Watch.judge_keeps ((w.record o now).takeSwap).1 o
  have hs : ((w.record o now).takeSwap).1.defn.contract = w.defn.contract ∧
      ((w.record o now).takeSwap).1.defn.owner = w.defn.owner ∧
      ((w.record o now).takeSwap).1.dyn.heldTrigger = w.dyn.heldTrigger := by
    unfold Watch.takeSwap
    split <;> exact ⟨rfl, rfl, rfl⟩
  refine ⟨?_, ?_, ?_⟩
  · exact (congrArg Definition.contract h.1).trans hs.1
  · exact (congrArg Definition.owner h.1).trans hs.2.1
  · exact h.2.trans hs.2.2

@[simp] theorem State.afterCauses_entry (s : State) (i j : EntryIndex) (w : Watch) (cs : CauseSet) :
    (s.afterCauses i w cs).entry j = s.entry j := by
  simp [State.afterCauses]

theorem State.afterCauses_congr (s : State) (i : EntryIndex) {v w : Watch} (cs : CauseSet)
    (h : v.defn.contract = w.defn.contract ∧ v.defn.owner = w.defn.owner) : s.afterCauses i v cs = s.afterCauses i w cs := by
  unfold State.afterCauses
  rw [h.1, h.2]

theorem State.serviceHeld_of_clear {s : State} {i : EntryIndex} {w : Watch} (h : (s.entry i).watch = some w)
    (hc : w.dyn.heldTrigger = false) : s.serviceHeld i = s := by
  simp [State.serviceHeld, h, hc]

/-- R140, R150, R151: a delivery to an ARMED watch. -/
theorem State.deliverArmed_spec {s : State} {i : EntryIndex} {w : Watch} (ha : (s.entry i).state = .armed) (o : Delivered) :
    s.ArmedDeliveryTaken i w o (s.deliverArmed i w o) := by
  obtain ⟨kc, ko, kh⟩ := Watch.deliver_keeps w o s.now
  let d := w.deliver o s.now
  let s0 := s.setEntry i { s.entry i with activity := .none, watch := some d.1 }
  have hw0 : (s0.entry i).watch = some d.1 := by simp [s0]
  have h1 : s0.raise i d.2 = s0.afterCauses i w d.2 := by
    rw [State.raise_of_watch hw0]
    exact State.afterCauses_congr s0 i d.2 ⟨kc, ko⟩
  let s1 := s0.afterCauses i w d.2
  have hw1 : (s1.entry i).watch = some d.1 := by simp [s1, s0]
  have hd : s.deliverArmed i w o =
      (if w.defn.contract.lifetime = .once then s1.endOnce i else s1).completeHeld i := by
    show (if w.defn.contract.lifetime = .once then (s0.raise i d.2).endOnce i else s0.raise i d.2).completeHeld i = _
    rw [h1]
  refine ⟨fun hl => ?_, fun hl hh => ?_, fun hl hh hs => ?_⟩
  · rw [hd, if_pos hl]
    let w' : Watch := { d.1 with dyn := { d.1.dyn with due := none, heldTrigger := false } }
    have he : s1.endOnce i = { s1.setEntry i { s1.entry i with state := .defined, watch := some w' } with
        dueList := s.dueList.filter fun m => decide (m.entry ≠ i) } := by
      have hleave := State.leaveDueList_of_watch hw1
      have hwl : ((s1.leaveDueList i).entry i).watch =
          some { d.1 with dyn := { d.1.dyn with due := none } } := by
        rw [hleave]
        show ((s1.withWatchAt i _).entry i).watch = _
        simp
      rw [State.endOnce, State.clearHeld, State.updateWatch_of_watch hwl, hleave]
      have hdl : s1.dueList = s.dueList := by simp [s1, s0, State.afterCauses]
      simp only [State.withWatchAt, State.entry, State.setEntry, Fin.getElem_fin, Vector.set_set, Vector.getElem_set_self,
        hdl]
      rfl
    have hst : ((s1.endOnce i).entry i).state = .defined := by
      rw [he]
      show ((s1.setEntry i _).entry i).state = _
      simp
    have hsv : (s1.endOnce i).completeHeld i = s1.endOnce i := by
      unfold State.completeHeld State.serviceHeld
      split
      · rfl
      · split
        · rfl
        · rw [if_neg]
          rw [hst]
          simp
    rw [hsv]
    exact he
  · rw [hd, if_neg (by simp [hl])]
    unfold State.completeHeld
    split
    · rfl
    · rename_i hn
      have hheld : s1.isHeld = s.isHeld := by simp [s1, s0, State.afterCauses]
      rw [hheld] at hn
      rcases hh with hh | hh
      · exact State.serviceHeld_of_clear hw1 (kh.trans hh)
      · exact absurd hh hn
  · rw [hd, if_neg (by simp [hl])]
    have hheld : s1.isHeld = false := by
      rw [← hs]
      simp [s1, s0, State.afterCauses]
    have hst : (s1.entry i).state = .armed ∧ (s1.entry i).activity = .none := by
      constructor
      · simpa [s1, s0] using ha
      · simp [s1, s0]
    let again : Watch := { d.1 with dyn := { d.1.dyn with heldTrigger := false } }
    have hc : s1.clearHeld i = s1.withWatchAt i again := State.updateWatch_of_watch hw1 _
    refine ⟨((s1.withWatchAt i again).startRequest i again).2, ?_⟩
    have hkh : d.1.dyn.heldTrigger = true := kh.trans hh
    have he : s1.completeHeld i = ((s1.withWatchAt i again).startRequest i again).1 := by
      rw [State.completeHeld, hheld, State.serviceHeld, hw1]
      simp only [hst.1, hst.2, hkh]
      rw [hc]
      rfl
    rw [he]
    exact State.startRequest_spec (by simp)

/-- R95, R137: a delivery to an entry by its state. -/
theorem State.deliver_spec {s : State} {i : EntryIndex} {w : Watch} (h : (s.entry i).watch = some w) (o : Delivered) :
    s.DeliveryTaken i w o (s.deliver i o) := by
  refine ⟨fun hs => ?_, fun hs => ?_, fun hs => ?_⟩
  · simp only [State.deliver, hs]
  · simp only [State.deliver, hs, h, Watch.record_eq]
  · have : s.deliver i o = s.deliverArmed i w o := by simp only [State.deliver, hs, h]
    rw [this]
    exact State.deliverArmed_spec hs o

end Sys2Proof.Machine
end

