-- ==== Sys2Proof/Laws/Ports.lean ====
section
/-! SUPPORT. How a port command reaches its block and comes back: a command's window, handle and owner checks said once, and, for
every shared operation, that it neither reads nor writes a port. With these a statement about `Answers` is one about the block. -/

namespace Sys2Proof.Machine

variable (s : State) (p : Port) (v : PortState)

/-! ### Named writes pass a port by -/

@[simp] theorem State.setEntry_setPort (i : EntryIndex) (e : Entry) :
    (s.setPort p v).setEntry i e = (s.setEntry i e).setPort p v := by cases p <;> rfl

@[simp] theorem State.setEngine_setPort (e : EngineIndex) (x : Engine) :
    (s.setPort p v).setEngine e x = (s.setEngine e x).setPort p v := by cases p <;> rfl

@[simp] theorem State.setDin_setPort (n : TimingInput) (x : DinContext) :
    (s.setPort p v).setDin n x = (s.setDin n x).setPort p v := by cases p <;> rfl

@[simp] theorem State.setConverter_setPort (c : ConverterId) (x : Converter) :
    (s.setPort p v).setConverter c x = (s.setConverter c x).setPort p v := by cases p <;> cases c <;> rfl

@[simp] theorem State.setLine_setPort (l : TrgLine) (x : TrgContext) :
    (s.setPort p v).setLine l x = (s.setLine l x).setPort p v := by cases p <;> cases l <;> rfl

@[simp] theorem State.setAttention_setPort (q : Port) (x : Attention) :
    (s.setPort p v).setAttention q x = (s.setAttention q x).setPort p v := by cases p <;> cases q <;> rfl

@[simp] theorem State.setHold_setPort (q : Port) (b : Bool) :
    (s.setPort p v).setHold q b = (s.setHold q b).setPort p v := by cases p <;> cases q <;> rfl

@[simp] theorem State.setCorrection_setPort (n : AnalogInput) (r : Fin 4) (k : Correction) :
    (s.setPort p v).setCorrection n r k = (s.setCorrection n r k).setPort p v := by cases p <;> rfl

theorem State.withWaitList_setPort (l : List EntryIndex) :
    { s.setPort p v with waitList := l } = { s with waitList := l }.setPort p v := by cases p <;> rfl

theorem State.withDueList_setPort (l : List DueMember) :
    { s.setPort p v with dueList := l } = { s with dueList := l }.setPort p v := by cases p <;> rfl

/-! ### Entries and attention -/

@[simp] theorem State.setActivity_setPort (i : EntryIndex) (a : Activity) :
    (s.setPort p v).setActivity i a = (s.setActivity i a).setPort p v := by simp [State.setActivity]

@[simp] theorem State.updateWatch_setPort (i : EntryIndex) (f : Watch → Watch) :
    (s.setPort p v).updateWatch i f = (s.updateWatch i f).setPort p v := by
  unfold State.updateWatch
  rw [State.setPort_entry]
  split <;> simp

@[simp] theorem State.owns_setPort (q : Port) (i : EntryIndex) : (s.setPort p v).owns q i = s.owns q i := by
  simp [State.owns]

@[simp] theorem State.addCauses_setPort (q : Port) (i : EntryIndex) (cs : CauseSet) :
    (s.setPort p v).addCauses q i cs = (s.addCauses q i cs).setPort p v := by simp [State.addCauses]

@[simp] theorem State.raise_setPort (i : EntryIndex) (cs : CauseSet) :
    (s.setPort p v).raise i cs = (s.raise i cs).setPort p v := by
  unfold State.raise
  rw [State.setPort_entry]
  split <;> simp

@[simp] theorem State.removeMember_setPort (q : Port) (i : EntryIndex) :
    (s.setPort p v).removeMember q i = (s.removeMember q i).setPort p v := by simp [State.removeMember]

@[simp] theorem State.countOverrun_setPort (i : EntryIndex) :
    (s.setPort p v).countOverrun i = (s.countOverrun i).setPort p v := by simp [State.countOverrun]

@[simp] theorem State.clearHeld_setPort (i : EntryIndex) :
    (s.setPort p v).clearHeld i = (s.clearHeld i).setPort p v := by simp [State.clearHeld]

@[simp] theorem State.attentionLine_setPort (q : Port) : (s.setPort p v).attentionLine q = s.attentionLine q := by
  simp [State.attentionLine]

/-! ### The due list -/

@[simp] theorem State.dueBefore_setPort (m : DueMember) (i : EntryIndex) (due : DeviceTime) :
    (s.setPort p v).dueBefore m i due = s.dueBefore m i due := by simp [State.dueBefore]

@[simp] theorem State.joinDueList_setPort (i : EntryIndex) (due : DeviceTime) :
    (s.setPort p v).joinDueList i due = (s.joinDueList i due).setPort p v := by
  simp only [State.joinDueList, State.updateWatch_setPort, State.dueBefore_setPort, State.setPort_dueList,
    State.withDueList_setPort]

@[simp] theorem State.leaveDueList_setPort (i : EntryIndex) :
    (s.setPort p v).leaveDueList i = (s.leaveDueList i).setPort p v := by
  simp only [State.leaveDueList, State.updateWatch_setPort, State.setPort_dueList, State.withDueList_setPort]

@[simp] theorem State.lateness_setPort (i : EntryIndex) : (s.setPort p v).lateness i = s.lateness i := by
  simp [State.lateness]

@[simp] theorem State.setLateness_setPort (i : EntryIndex) (l : Lateness) :
    (s.setPort p v).setLateness i l = (s.setLateness i l).setPort p v := by
  simp only [State.setLateness, State.setPort_dueList, State.withDueList_setPort]

/-! ### Engines -/

@[simp] theorem State.assignEngine_setPort (e : EngineIndex) (i : EntryIndex) (m : Measurement) (x : Nat) :
    (s.setPort p v).assignEngine e i m x = (s.assignEngine e i m x).setPort p v := by simp [State.assignEngine]

@[simp] theorem State.freeEngine_setPort : (s.setPort p v).freeEngine = s.freeEngine := by simp [State.freeEngine]

@[simp] theorem State.engineOf_setPort (i : EntryIndex) : (s.setPort p v).engineOf i = s.engineOf i := by
  simp [State.engineOf]

@[simp] theorem State.reservedFor_setPort (i : EntryIndex) : (s.setPort p v).reservedFor i = s.reservedFor i := by
  simp [State.reservedFor]

@[simp] theorem State.inputBusy_setPort (n : TimingInput) : (s.setPort p v).inputBusy n = s.inputBusy n := by
  simp [State.inputBusy]

@[simp] theorem State.requestEngine_setPort (i : EntryIndex) (m : Measurement) (x : Nat) :
    (s.setPort p v).requestEngine i m x = (s.requestEngine i m x).setPort p v := by
  unfold State.requestEngine
  rw [State.freeEngine_setPort]
  split
  · simp
  · rw [State.setPort_waitList, State.withWaitList_setPort, State.setActivity_setPort]

theorem handOver_setPort (e : EngineIndex) (l : List EntryIndex) :
    handOver (s.setPort p v) e l = (handOver s e l).setPort p v := by
  induction l with
  | nil => simp only [handOver, State.withWaitList_setPort, State.setEngine_setPort]
  | cons i rest ih =>
    unfold handOver
    rw [State.setPort_entry]
    split
    · exact ih
    · rw [State.withWaitList_setPort, State.assignEngine_setPort]

@[simp] theorem State.releaseEngine_setPort (e : EngineIndex) :
    (s.setPort p v).releaseEngine e = (s.releaseEngine e).setPort p v := by
  rw [State.releaseEngine, State.setPort_waitList, handOver_setPort, State.releaseEngine]

@[simp] theorem State.abandon_setPort (i : EntryIndex) : (s.setPort p v).abandon i = (s.abandon i).setPort p v := by
  unfold State.abandon
  rw [State.engineOf_setPort]
  split <;> simp

@[simp] theorem State.leaveWaitList_setPort (i : EntryIndex) :
    (s.setPort p v).leaveWaitList i = (s.leaveWaitList i).setPort p v := by
  simp only [State.leaveWaitList, State.setPort_waitList, State.withWaitList_setPort]

/-! ### Converters -/

@[simp] theorem State.unsubscribe_setPort (i : EntryIndex) :
    (s.setPort p v).unsubscribe i = (s.unsubscribe i).setPort p v := by cases p <;> rfl

@[simp] theorem State.markConverting_setPort (l : List EntryIndex) :
    (s.setPort p v).markConverting l = (s.markConverting l).setPort p v := by
  unfold State.markConverting
  induction l generalizing s with
  | nil => rfl
  | cons i l ih => rw [List.foldl_cons, State.setActivity_setPort, ih, List.foldl_cons]

@[simp] theorem State.takeNext_setPort (c : ConverterId) : (s.setPort p v).takeNext c = (s.takeNext c).setPort p v := by
  unfold State.takeNext
  rw [State.setPort_converter]
  dsimp only
  split <;> simp

theorem State.submit_setPort (i : EntryIndex) (n : AnalogInput) (r : Fin 4) (d : Nat) :
    (s.setPort p v).submit i n r d = ((s.submit i n r d).1.setPort p v, (s.submit i n r d).2) := by
  unfold State.submit
  dsimp only
  rw [State.setPort_converter]
  split
  · simp
  · split <;> simp

/-! ### Starts -/

theorem State.startByPolicy_setPort (i : EntryIndex) (w : Watch) :
    (s.setPort p v).startByPolicy i w = ((s.startByPolicy i w).1.setPort p v, (s.startByPolicy i w).2) := by
  unfold State.startByPolicy State.overrunStart
  split <;> simp

theorem State.startWork_setPort (i : EntryIndex) (w : Watch) :
    (s.setPort p v).startWork i w = ((s.startWork i w).1.setPort p v, (s.startWork i w).2) := by
  unfold State.startWork
  split
  · rename_i n r d _
    rw [State.submit_setPort]
    generalize s.submit i n r d = x
    obtain ⟨t, k⟩ := x
    cases k <;> simp [State.overrunStart]
  · simp

theorem State.startRequest_setPort (i : EntryIndex) (w : Watch) :
    (s.setPort p v).startRequest i w = ((s.startRequest i w).1.setPort p v, (s.startRequest i w).2) := by
  unfold State.startRequest
  rw [State.setPort_entry]
  split
  · exact State.startWork_setPort s p v i w
  · exact State.startByPolicy_setPort s p v i w

@[simp] theorem State.serviceHeld_setPort (i : EntryIndex) :
    (s.setPort p v).serviceHeld i = (s.serviceHeld i).setPort p v := by
  unfold State.serviceHeld
  rw [State.setPort_entry]
  split
  · rfl
  · split
    · rw [State.clearHeld_setPort, State.startRequest_setPort]
    · rfl

@[simp] theorem State.expire_setPort (i : EntryIndex) (l : Lateness) :
    (s.setPort p v).expire i l = (s.expire i l).setPort p v := by
  unfold State.expire
  rw [State.setPort_entry]
  split
  · split
    · dsimp only
      rw [State.setPort_now, State.leaveDueList_setPort, State.joinDueList_setPort, State.countOverrun_setPort]
      by_cases hl : l = .late
      · rw [if_pos hl, if_pos hl, if_pos hl, State.setPort_entry]
        split
        · rfl
        · rw [State.startRequest_setPort]
      · rw [if_neg hl, if_neg hl, if_neg hl, State.setPort_entry]
        split
        · rfl
        · rw [State.startRequest_setPort]
    · simp
  · simp

theorem State.foldl_setPort {α : Type} (f : State → α → State) (hf : ∀ s a, f (s.setPort p v) a = (f s a).setPort p v)
    (l : List α) : l.foldl f (s.setPort p v) = (l.foldl f s).setPort p v := by
  induction l generalizing s with
  | nil => rfl
  | cons a l ih => rw [List.foldl_cons, hf, ih, List.foldl_cons]

/-! ### Deliveries and the ends of watches -/

@[simp] theorem State.endOnce_setPort (i : EntryIndex) : (s.setPort p v).endOnce i = (s.endOnce i).setPort p v := by
  simp [State.endOnce]

@[simp] theorem State.completeHeld_setPort (i : EntryIndex) :
    (s.setPort p v).completeHeld i = (s.completeHeld i).setPort p v := by
  unfold State.completeHeld
  rw [State.setPort_isHeld, State.serviceHeld_setPort]
  split <;> rfl

@[simp] theorem State.deliverArmed_setPort (i : EntryIndex) (w : Watch) (o : Delivered) :
    (s.setPort p v).deliverArmed i w o = (s.deliverArmed i w o).setPort p v := by
  unfold State.deliverArmed
  simp only [State.setPort_now, State.setPort_entry, State.setEntry_setPort, State.raise_setPort, State.endOnce_setPort]
  split <;> simp

@[simp] theorem State.deliver_setPort (i : EntryIndex) (o : Delivered) :
    (s.setPort p v).deliver i o = (s.deliver i o).setPort p v := by
  unfold State.deliver
  rw [State.setPort_entry]
  dsimp only
  split <;> simp

@[simp] theorem State.deliverFromEngine_setPort (e : EngineIndex) :
    (s.setPort p v).deliverFromEngine e = (s.deliverFromEngine e).setPort p v := by
  unfold State.deliverFromEngine
  rw [State.setPort_engine]
  dsimp only
  split <;> simp

@[simp] theorem State.deliverFromConverter_setPort (c : ConverterId) (i : EntryIndex) :
    (s.setPort p v).deliverFromConverter c i = (s.deliverFromConverter c i).setPort p v := by
  unfold State.deliverFromConverter
  rw [State.setPort_converter]
  dsimp only
  split
  · split
    · rw [State.setConverter_setPort, State.deliver_setPort, State.takeNext_setPort]
      split <;> rfl
    · rfl
  · rfl

@[simp] theorem State.takeDelivery_setPort (source : DeliverySource) :
    (s.setPort p v).takeDelivery source = (s.takeDelivery source).setPort p v := by
  cases source <;> simp [State.takeDelivery]

@[simp] theorem State.startIdle_setPort (c : ConverterId) : (s.setPort p v).startIdle c = (s.startIdle c).setPort p v := by
  unfold State.startIdle
  rw [State.setPort_converter, State.takeNext_setPort]
  split <;> rfl

@[simp] theorem State.settleCompletion_setPort (i : EntryIndex) :
    (s.setPort p v).settleCompletion i = (s.settleCompletion i).setPort p v := by
  unfold State.settleCompletion
  rw [State.reservedFor_setPort]
  split <;> simp

@[simp] theorem State.letGo_setPort (i : EntryIndex) : (s.setPort p v).letGo i = (s.letGo i).setPort p v := by
  unfold State.letGo
  rw [State.setPort_entry]
  split <;> simp

@[simp] theorem State.disarmWatch_setPort (i : EntryIndex) :
    (s.setPort p v).disarmWatch i = (s.disarmWatch i).setPort p v := by simp [State.disarmWatch]

@[simp] theorem State.retireWatch_setPort (q : Port) (i : EntryIndex) :
    (s.setPort p v).retireWatch q i = (s.retireWatch q i).setPort p v := by
  simp only [State.retireWatch, State.leaveDueList_setPort, State.removeMember_setPort, State.clearHeld_setPort,
    State.updateWatch_setPort, State.setPort_entry, State.setEntry_setPort, State.letGo_setPort]
  split <;> rfl

@[simp] theorem State.retireOwned_setPort (q : Port) (i : EntryIndex) :
    State.retireOwned q (s.setPort p v) i = (State.retireOwned q s i).setPort p v := by
  simp only [State.retireOwned, State.owns_setPort, State.settleCompletion_setPort, State.retireWatch_setPort]
  split <;> rfl

@[simp] theorem State.armWatch_setPort (i : EntryIndex) (w : Watch) (delay : Half) :
    (s.setPort p v).armWatch i w delay = (s.armWatch i w delay).setPort p v := by
  simp only [State.armWatch, State.setPort_entry, State.setEntry_setPort, State.setPort_now, State.joinDueList_setPort,
    State.setPort_isHeld, State.expire_setPort]
  split
  · split <;> rfl
  · rfl

@[simp] theorem State.retestLateness_setPort (i : EntryIndex) (w : Watch) :
    (s.setPort p v).retestLateness i w = (s.retestLateness i w).setPort p v := by
  unfold State.retestLateness
  simp only [State.lateness_setPort, State.setPort_now, State.setLateness_setPort]
  split
  · split <;> rfl
  · rfl

/-! ### The longer commands -/

/-- A delivery or a start that comes before a claim is taken there, whatever the claim. -/
theorem State.interject_of_quiet (q : Port) (c : Claim) {e : Interjection} (he : isQuiet e = true) :
    State.interject q c s e = s.takeInterjection q e := by
  cases e <;> first | (cases he; done) | simp [State.interject, State.keptOut]

theorem State.takeInterjection_setPort (q : Port) {e : Interjection} (he : isQuiet e = true) :
    (s.setPort p v).takeInterjection q e = (s.takeInterjection q e).setPort p v := by
  cases e <;> first | (cases he; done) | simp [State.takeInterjection]

/-- Deliveries and starts before a claim pass a port by. -/
theorem beforeClaim_setPort (q : Port) {between : List Between} (hb : ∀ b ∈ between, isQuiet b.event = true) (c : Claim) :
    beforeClaim q between c (s.setPort p v) = (beforeClaim q between c s).setPort p v := by
  have hq : ∀ e ∈ (between.filter fun b => decide (b.claim = c)).map (·.event), isQuiet e = true := by
    intro e he
    obtain ⟨b, hm, rfl⟩ := List.mem_map.mp he
    exact hb b (List.mem_filter.mp hm).1
  unfold beforeClaim
  generalize (between.filter fun b => decide (b.claim = c)).map (·.event) = es at hq
  induction es generalizing s with
  | nil => rfl
  | cons e es ih =>
    rw [List.foldl_cons, List.foldl_cons, State.interject_of_quiet _ q c (hq e (by simp)),
      State.interject_of_quiet _ q c (hq e (by simp)), State.takeInterjection_setPort _ _ _ q (hq e (by simp)),
      ih _ fun e' he => hq e' (by simp [he])]

/-- With no events listed, nothing comes before a claim. -/
theorem beforeClaim_nil (q : Port) : beforeClaim q [] = nothingBefore := rfl

@[simp] theorem State.dueReached_setPort (i : EntryIndex) : (s.setPort p v).dueReached i = s.dueReached i := by
  simp [State.dueReached]

@[simp] theorem State.lateReached_setPort (i : EntryIndex) : (s.setPort p v).lateReached i = s.lateReached i := by
  simp [State.lateReached]

@[simp] theorem State.settled_setPort (m : DueMember) : (s.setPort p v).settled m = s.settled m := by
  simp only [State.settled, State.dueReached_setPort, State.lateReached_setPort]

@[simp] theorem State.settleLateness_setPort : (s.setPort p v).settleLateness = s.settleLateness.setPort p v := by
  have h : (s.setPort p v).settled = s.settled := funext fun m => State.settled_setPort s p v m
  rw [State.settleLateness, h, State.setPort_dueList, State.withDueList_setPort, State.settleLateness]

/-- The longer commands pass a port by if what comes before their claims does. -/
theorem State.resumeWork_setPort {before : Claim → State → State}
    (hb : ∀ s c, before c (s.setPort p v) = (before c s).setPort p v) :
    (s.setPort p v).resumeWork before = (s.resumeWork before).setPort p v := by
  unfold State.resumeWork
  dsimp only
  have he : ∀ s i, State.resumeExpiry before (s.setPort p v) i = (State.resumeExpiry before s i).setPort p v := fun s i => by
    simp only [State.resumeExpiry, hb, State.lateness_setPort, State.expire_setPort]
    split <;> rfl
  rw [State.settleLateness_setPort, State.setPort_dueList, State.foldl_setPort _ _ _ _ he,
    State.foldl_setPort _ _ _ _ fun s i => by simp [State.resumeService, hb]]

theorem State.releaseHold_setPort (q : Port) {before : Claim → State → State}
    (hb : ∀ s c, before c (s.setPort p v) = (before c s).setPort p v) :
    (s.setPort p v).releaseHold q before = (s.releaseHold q before).setPort p v := by
  unfold State.releaseHold
  simp only [State.setPort_hold, State.setHold_setPort, State.setPort_isHeld, State.resumeWork_setPort _ _ _ hb]
  split <;> rfl

theorem State.retireAll_setPort (q : Port) {before : Claim → State → State}
    (hb : ∀ s c, before c (s.setPort p v) = (before c s).setPort p v) :
    (s.setPort p v).retireAll q before = (s.retireAll q before).setPort p v :=
  State.foldl_setPort _ _ _ _ (fun s i => by simp [State.portRetirement, hb]) _

theorem nothingBefore_setPort (c : Claim) : nothingBefore c (s.setPort p v) = (nothingBefore c s).setPort p v := rfl

/-- With nothing before its claims, a service of the resume work is the service alone. -/
theorem State.resumeService_nothing : State.resumeService nothingBefore = State.serviceHeld := rfl

/-- With nothing before its claims, PORT RESET comes to an entry at once. -/
theorem State.portRetirement_nothing (q : Port) : State.portRetirement q nothingBefore = State.retireOwned q := rfl

/-- R49, R63: the settled status of a member is the one of `State.statusNow`. -/
theorem State.settled_eq {m : DueMember} {w : Watch} {n : Nat} {due : DeviceTime} (hw : (s.entry m.entry).watch = some w)
    (hs : w.defn.contract.start = .interval n) (hd : w.dyn.due = some due) :
    s.settled m = { m with lateness := s.statusNow m due n } := by
  have h1 : s.dueReached m.entry = decide ((s.now - due).toNat < 2 ^ 31) := by
    simp [State.dueReached, hw, hd, reached]
  have h2 : s.lateReached m.entry = decide ((s.now - (due + BitVec.ofNat 32 (n * 10))).toNat < 2 ^ 31) := by
    simp [State.lateReached, hw, hd, hs, reached, Watch.lateTime, intervalUnits, Config.unitsPerInterval]
  obtain ⟨i, l⟩ := m
  simp only [State.settled, State.statusNow, h1, h2, decide_eq_true_eq]
  cases l <;> simp <;> split <;> simp <;> split <;> simp_all

/-! ### A command at its window -/

/-- The end of a transaction makes no window EXECUTING and leaves one that is. -/
theorem PortState.windowAtEnd_isExecuting (v : PortState) : v.windowAtEnd.isExecuting = v.window.isExecuting := by
  unfold PortState.windowAtEnd CommandWindow.discardPartial
  split
  · rename_i hw
    rw [hw]
    split <;> rfl
  · split <;> rename_i hw <;> simp_all [CommandWindow.isExecuting]

/-- A port that takes a command hands it to its block with the window EXECUTING and unmarked. -/
theorem State.command_spec {s : State} {p : Port} (ha : s.accepts p = true) (tag : Byte) (len : Nat)
    (body : State → State × Reply) :
    ∃ v : PortState, v.window = .executing tag false ∧
      s.command p tag len true body = (body (s.setPort p v)).1.reply p (body (s.setPort p v)).2 := by
  simp only [State.accepts, Bool.and_eq_true, Bool.not_eq_true'] at ha
  have hx := (s.port p).windowAtEnd_isExecuting
  rw [ha.2] at hx
  refine ⟨⟨.executing tag false, .none, writeDrive p (len + 5), true, .high, 0⟩, rfl, ?_⟩
  rw [State.command, ha.1]
  simp only [Bool.false_eq_true, if_false, if_true, State.endTransaction, State.drive, State.setWindow, State.port_setPort,
    State.setPort_setPort]
  cases hw : (s.port p).windowAtEnd <;> simp [hw, CommandWindow.isExecuting] at hx ⊢

/-- R170, R172: a port's own transaction leaves its window EXECUTING, marked where it is a write, and touches nothing else. -/
theorem State.ownTransaction_spec {s : State} {p : Port} {tag : Byte} {m : Bool} (hw : (s.port p).window = .executing tag m)
    (o : OwnTransaction) :
    ∃ v : PortState, v.window = .executing tag (m || decide (o = .write)) ∧ State.ownTransaction p s o = s.setPort p v := by
  have he : (s.port p).windowAtEnd = .executing tag m := by
    unfold PortState.windowAtEnd
    rw [hw]
    split
    · contradiction
    · rfl
  cases o with
  | write =>
    refine ⟨⟨.executing tag true, .discarding, writeDrive p 2, true, sclAfterByte p, 0⟩, by simp, ?_⟩
    simp [State.ownTransaction, State.collide, hw, State.startTransaction, State.clockByte, State.endTransaction, State.setBus,
      State.drive, State.setWindow]
  | read n =>
    refine ⟨_, ?_, by simp only [State.ownTransaction, State.beginRead, State.readMore, State.startTransaction,
      State.clockByte, State.endTransaction, State.setBus,
      State.drive, State.port_setPort, State.setPort_setPort]; rfl⟩
    simp [he]

/-- R170, R172, R184: what a port does before the answer leaves its window EXECUTING, marked where it wrote, and touches nothing
else. -/
theorem State.ownTransactions_spec {s : State} {p : Port} {tag : Byte} (own : List OwnTransaction) {m : Bool}
    (hw : (s.port p).window = .executing tag m) :
    ∃ v : PortState, v.window = .executing tag (m || decide (OwnTransaction.write ∈ own)) ∧
      s.ownTransactions p own = s.setPort p v := by
  induction own generalizing s m with
  | nil => exact ⟨s.port p, by simp [hw], by simp [State.ownTransactions]⟩
  | cons o own ih =>
    obtain ⟨v, hv, ho⟩ := State.ownTransaction_spec hw o
    obtain ⟨u, hu, hs⟩ := ih (s := s.setPort p v) (m := m || decide (o = .write)) (by simp [hv])
    refine ⟨u, ?_, ?_⟩
    · rw [hu]
      cases o <;> simp [eq_comm]
    · have hc : s.ownTransactions p (o :: own) = (State.ownTransaction p s o).ownTransactions p own := rfl
      rw [hc, ho, hs, State.setPort_setPort]

/-- A block that answers OK with data, whatever stands at the port, makes the command `Answers` so. -/
theorem answers_ok {i : Instr} {s s' : State} {p : Port} {tag : Byte} {len : Nat} {body : State → State × Reply}
    {data : List Byte} (hx : exec i s = .next (s.command p tag len true body)) (ha : s.accepts p = true)
    (hb : ∀ v, body (s.setPort p v) = (s'.setPort p v, .ok data)) : Answers i s p tag .ok data s' := by
  obtain ⟨v, hv, hc⟩ := State.command_spec ha tag len body
  refine ⟨_, hx, ?_, ?_⟩ <;> rw [hc, hb v] <;> simp [State.reply, State.answer, State.setWindow, hv]

/-- A block that refuses and changes nothing makes the command `Answers` so. -/
theorem answers_refusal {i : Instr} {s : State} {p : Port} {tag : Byte} {len : Nat} {body : State → State × Reply}
    {status : Status} (hx : exec i s = .next (s.command p tag len true body)) (ha : s.accepts p = true)
    (hb : ∀ v, body (s.setPort p v) = (s.setPort p v, .refuse status)) : Answers i s p tag status [] s := by
  obtain ⟨v, hv, hc⟩ := State.command_spec ha tag len body
  refine ⟨_, hx, ?_, ?_⟩ <;> rw [hc, hb v] <;> simp [State.reply, State.answer, State.setWindow, hv]

/-- A command whose parameters are not valid is answered BAD_PARAMETER at the port (R168). -/
theorem answers_badParameter {i : Instr} {s : State} {p : Port} {tag : Byte} {len : Nat} {body : State → State × Reply}
    (hx : exec i s = .next (s.command p tag len false body)) (ha : s.accepts p = true) :
    Answers i s p tag .badParameter [] s := by
  simp only [State.accepts, Bool.and_eq_true, Bool.not_eq_true'] at ha
  have he := (s.port p).windowAtEnd_isExecuting
  rw [ha.2] at he
  refine ⟨_, hx, ?_, ?_⟩ <;> rw [State.command, ha.1] <;>
    simp only [Bool.false_eq_true, if_false, State.endTransaction, State.drive, State.setWindow, State.port_setPort,
      State.setPort_setPort] <;>
    cases hw : (s.port p).windowAtEnd <;> simp [hw, CommandWindow.isExecuting] at he ⊢

/-! ### Handles and owners -/

/-- A handle that names a watch passes the handle checks (R13). -/
theorem State.handleStatus_of_names {s : State} {h : Handle} {i : EntryIndex} {w : Watch} (hn : s.Names h i w) :
    s.handleStatus h = none ∧ handleEntry h = i := by
  have hi : handleEntry h = i := by
    apply Fin.ext
    simp only [handleEntry, Fin.ofNat, hn.index]
    omega
  refine ⟨?_, hi⟩
  have hr : handleInRange h = true := by
    have := hn.index
    have := hn.generation
    have := (s.entry i).generation.isLt
    simp only [handleInRange, Bool.and_eq_true, decide_eq_true_eq]
    omega
  have ha := hn.addressable
  simp only [Entry.addressable, Bool.or_eq_true, decide_eq_true_eq] at ha
  simp only [State.handleStatus, hr, hi]
  rcases ha with ha | ha <;> simp [ha, hn.generation]

/-- A command on a named watch that passes the ownership check is the command at its entry (R13, R15). -/
theorem State.withWatch_of_names {s : State} {p : Port} {h : Handle} {i : EntryIndex} {w : Watch} (hn : s.Names h i w)
    {reads : Bool} (ho : ownerStatus p reads w = none) (k : EntryIndex → Watch → State × Reply) :
    s.withWatch p h reads k = k i w := by
  obtain ⟨hs, hi⟩ := State.handleStatus_of_names hn
  simp [State.withWatch, hs, hi, hn.watch, ho]

/-- What a handle names does not depend on the ports. -/
theorem State.Names.setPort {s : State} {h : Handle} {i : EntryIndex} {w : Watch} (hn : s.Names h i w) (p : Port)
    (v : PortState) : (s.setPort p v).Names h i w :=
  ⟨hn.index, by simpa using hn.generation, by simpa using hn.addressable, by simpa using hn.watch⟩

@[simp] theorem State.handleStatus_setPort (h : Handle) : (s.setPort p v).handleStatus h = s.handleStatus h := by
  simp [State.handleStatus]

end Sys2Proof.Machine
end

