-- ==== Sys2Proof/Laws/Resume.lean ====
section
/-! SUPPORT. The resume work said once in the terms of Safety.lean: its expiries and its services, each on its own entry. -/

namespace Sys2Proof.Machine

/-! ### A start and an expiry touch their own entry alone -/

@[simp] theorem State.addCauses_entry (s : State) (p : Port) (i j : EntryIndex) (cs : CauseSet) :
    (s.addCauses p i cs).entry j = s.entry j := by simp [State.addCauses]

@[simp] theorem State.raise_entry (s : State) (i j : EntryIndex) (cs : CauseSet) : (s.raise i cs).entry j = s.entry j := by
  unfold State.raise
  split <;> simp

theorem State.updateWatch_entry_of_ne (s : State) {i j : EntryIndex} (f : Watch → Watch) (h : i ≠ j) :
    (s.updateWatch i f).entry j = s.entry j := by
  unfold State.updateWatch
  split <;> simp [h]

theorem State.countOverrun_entry_of_ne (s : State) {i j : EntryIndex} (h : i ≠ j) :
    (s.countOverrun i).entry j = s.entry j := by
  rw [State.countOverrun, State.raise_entry, State.updateWatch_entry_of_ne s _ h]

theorem State.requestEngine_entry_of_ne (s : State) {i j : EntryIndex} (m : Measurement) (x : Nat) (h : i ≠ j) :
    (s.requestEngine i m x).entry j = s.entry j := by
  unfold State.requestEngine State.assignEngine
  split
  · simp [h]
  · rw [State.setActivity_entry, if_neg h]
    rfl

theorem State.submit_entry_of_ne (s : State) {i j : EntryIndex} (n : AnalogInput) (r : Fin 4) (d : Nat) (h : i ≠ j) :
    (s.submit i n r d).1.entry j = s.entry j := by
  unfold State.submit
  dsimp only
  split
  · simp [h]
  · split <;> simp [h]

theorem State.startByPolicy_entry_of_ne (s : State) {i j : EntryIndex} (w : Watch) (h : i ≠ j) :
    (s.startByPolicy i w).1.entry j = s.entry j := by
  unfold State.startByPolicy State.overrunStart
  split
  · exact State.updateWatch_entry_of_ne s _ h
  · exact State.countOverrun_entry_of_ne s h

theorem State.startRequest_entry_of_ne (s : State) {i j : EntryIndex} (w : Watch) (h : i ≠ j) :
    (s.startRequest i w).1.entry j = s.entry j := by
  unfold State.startRequest State.startWork
  split
  · split
    · rename_i n r d _
      have hs := State.submit_entry_of_ne s n r d h
      revert hs
      generalize s.submit i n r d = x
      obtain ⟨t, k⟩ := x
      cases k
      · exact id
      · exact id
      · exact id
      · exact fun _ => State.countOverrun_entry_of_ne s h
    · exact State.requestEngine_entry_of_ne s _ _ h
  · exact State.startByPolicy_entry_of_ne s w h

theorem State.leaveDueList_entry_of_ne (s : State) {i j : EntryIndex} (h : i ≠ j) :
    (s.leaveDueList i).entry j = s.entry j := State.updateWatch_entry_of_ne s _ h

theorem State.joinDueList_entry_of_ne (s : State) {i j : EntryIndex} (d : DeviceTime) (h : i ≠ j) :
    (s.joinDueList i d).entry j = s.entry j := State.updateWatch_entry_of_ne s _ h

/-- An expiry changes no entry but its own (R50). -/
theorem State.expire_entry_of_ne (s : State) {i j : EntryIndex} (l : Lateness) (h : i ≠ j) :
    (s.expire i l).entry j = s.entry j := by
  unfold State.expire
  split
  · split
    · dsimp only
      split
      · rw [apply_ite (fun t : State => t.entry j), State.countOverrun_entry_of_ne _ h, ite_self,
          State.joinDueList_entry_of_ne _ _ h, State.leaveDueList_entry_of_ne s h]
      · rw [State.startRequest_entry_of_ne _ _ h, apply_ite (fun t : State => t.entry j),
          State.countOverrun_entry_of_ne _ h, ite_self, State.joinDueList_entry_of_ne _ _ h,
          State.leaveDueList_entry_of_ne s h]
    · exact State.leaveDueList_entry_of_ne s h
  · exact State.leaveDueList_entry_of_ne s h

/-! ### What a start and an expiry make of the due list -/

@[simp] theorem State.setActivity_dueList (s : State) (i : EntryIndex) (a : Activity) : (s.setActivity i a).dueList = s.dueList := rfl

@[simp] theorem State.updateWatch_dueList (s : State) (i : EntryIndex) (f : Watch → Watch) :
    (s.updateWatch i f).dueList = s.dueList := by
  unfold State.updateWatch
  split <;> simp

@[simp] theorem State.raise_dueList (s : State) (i : EntryIndex) (cs : CauseSet) : (s.raise i cs).dueList = s.dueList := by
  unfold State.raise
  split <;> simp [State.addCauses]

@[simp] theorem State.countOverrun_dueList (s : State) (i : EntryIndex) : (s.countOverrun i).dueList = s.dueList := by
  simp [State.countOverrun]

@[simp] theorem State.requestEngine_dueList (s : State) (i : EntryIndex) (m : Measurement) (x : Nat) :
    (s.requestEngine i m x).dueList = s.dueList := by
  unfold State.requestEngine State.assignEngine
  split <;> simp

@[simp] theorem State.submit_dueList (s : State) (i : EntryIndex) (n : AnalogInput) (r : Fin 4) (d : Nat) :
    (s.submit i n r d).1.dueList = s.dueList := by
  unfold State.submit
  dsimp only
  split
  · simp
  · split <;> simp

@[simp] theorem State.startByPolicy_dueList (s : State) (i : EntryIndex) (w : Watch) :
    (s.startByPolicy i w).1.dueList = s.dueList := by
  unfold State.startByPolicy State.overrunStart
  split <;> simp

/-- A start leaves the due list as it stands (R54 to R56). -/
@[simp] theorem State.startRequest_dueList (s : State) (i : EntryIndex) (w : Watch) :
    (s.startRequest i w).1.dueList = s.dueList := by
  unfold State.startRequest State.startWork
  split
  · split
    · rename_i n r d _
      have hs := State.submit_dueList s i n r d
      revert hs
      generalize s.submit i n r d = x
      obtain ⟨t, k⟩ := x
      cases k
      · exact id
      · exact id
      · exact id
      · exact fun _ => State.countOverrun_dueList s i
    · exact State.requestEngine_dueList s i _ _
  · exact State.startByPolicy_dueList s i w

theorem find?_insertDue {before : DueMember → Bool} {m : DueMember} {f : DueMember → Bool} (h : f m = false) (l : List DueMember) :
    (insertDue before m l).find? f = l.find? f := by
  obtain ⟨front, back, hl, hi, -⟩ := insertDue_spec before m l
  rw [hi, hl, List.find?_append, List.find?_append, List.find?_cons, h]

/-- The lateness of every other member stands when one expires (R50). -/
theorem State.lateness_expire_of_ne (s : State) {i j : EntryIndex} (l : Lateness) (h : i ≠ j) :
    (s.expire i l).lateness j = s.lateness j := by
  have hleave : (s.leaveDueList i).lateness j = s.lateness j := by
    simp only [State.lateness, State.leaveDueList, List.find?_filter]
    congr 2
    funext m
    by_cases hm : m.entry = j <;> simp [hm, Ne.symm h]
  have hjoin : ∀ d, ((s.leaveDueList i).joinDueList i d).lateness j = s.lateness j := fun d => by
    rw [← hleave]
    exact congrArg (Option.map _) (find?_insertDue (by simp [h]) _)
  have hsame : ∀ t u : State, t.dueList = u.dueList → t.lateness j = u.lateness j := fun t u he => by
    rw [State.lateness, State.lateness, he]
  unfold State.expire
  split
  · split
    · dsimp only
      split
      · rw [apply_ite (fun t : State => t.lateness j), hsame _ _ (State.countOverrun_dueList _ i), ite_self, hjoin]
      · rw [hsame _ _ (State.startRequest_dueList _ i _), apply_ite (fun t : State => t.lateness j),
          hsame _ _ (State.countOverrun_dueList _ i), ite_self, hjoin]
    · exact hleave
  · exact hleave

/-- The lateness of a member of a due list that names each entry once (R48). -/
theorem State.lateness_of_mem {s : State} (hd : (s.dueList.map (·.entry)).Nodup) {m : DueMember} (hm : m ∈ s.dueList) :
    s.lateness m.entry = some m.lateness := by
  unfold State.lateness
  generalize s.dueList = l at hd hm
  induction l with
  | nil => cases hm
  | cons x xs ih =>
    rw [List.map_cons, List.nodup_cons] at hd
    rcases List.mem_cons.mp hm with rfl | hx
    · simp
    · have hne : x.entry ≠ m.entry := fun he => hd.1 (List.mem_map.mpr ⟨m, hx, he.symm⟩)
      rw [List.find?_cons_of_neg (by simp [hne]), ih hd.2 hx]

/-! ### The two steps of the resume work -/

/-- With nothing before its claims, the first step of the resume work is the expiries of the members that are behind, each with its
lateness (R64 step 1). -/
theorem resumeExpiries_nothing (ms : List DueMember) (s : State) (hd : (ms.map (·.entry)).Nodup)
    (hm : ∀ m ∈ ms, s.lateness m.entry = some m.lateness) (hl : ∀ m ∈ ms, m.lateness ≠ .onTime) :
    (ms.map (·.entry)).foldl (State.resumeExpiry nothingBefore) s = ms.foldl (fun s m => s.expire m.entry m.lateness) s := by
  induction ms generalizing s with
  | nil => rfl
  | cons m ms ih =>
    rw [List.map_cons, List.nodup_cons] at hd
    have hx : State.resumeExpiry nothingBefore s m.entry = s.expire m.entry m.lateness := by
      have h1 := hm m (by simp)
      have h2 := hl m (by simp)
      unfold State.resumeExpiry
      simp only [nothingBefore, h1]
      cases h : m.lateness
      · exact absurd h h2
      · rfl
      · rfl
    rw [List.map_cons, List.foldl_cons, List.foldl_cons, hx]
    refine ih _ hd.2 (fun x hxm => ?_) fun x hxm => hl x (by simp [hxm])
    rw [State.lateness_expire_of_ne s _ fun h => hd.1 (List.mem_map.mpr ⟨x, hxm, h.symm⟩)]
    exact hm x (by simp [hxm])

/-- R64 step 2: the service of one entry. -/
theorem State.serviceHeld_spec (s : State) (i : EntryIndex) : s.ServiceTaken i (s.serviceHeld i) := by
  constructor
  · rintro w ⟨hs, hw, hh, ha⟩
    let again : Watch := { w with dyn := { w.dyn with heldTrigger := false } }
    refine ⟨((s.withWatchAt i again).startRequest i again).2, ?_⟩
    rw [State.serviceHeld, hw]
    dsimp only
    rw [if_pos ⟨hs, hh, ha⟩, State.clearHeld, State.updateWatch_of_watch hw]
    exact State.startRequest_spec (by simp)
  · intro hn
    unfold State.serviceHeld
    split
    · rfl
    · rename_i w hw
      exact if_neg fun h => hn w ⟨h.1, hw, h.2.1, h.2.2⟩

/-- R64 step 2: the services of a list of entries. -/
theorem servicesTaken_foldl (is : List EntryIndex) (s : State) : ServicesTaken is s (is.foldl State.serviceHeld s) := by
  induction is generalizing s with
  | nil => rfl
  | cons i is ih => exact ⟨s.serviceHeld i, State.serviceHeld_spec s i, ih _⟩

/-- R64 step 1: the expiries of members with different entries, each an ARMED INTERVAL watch with a due time. -/
theorem expiriesTaken_foldl (ms : List DueMember) (s : State) (hd : (ms.map (·.entry)).Nodup)
    (hm : ∀ m ∈ ms, (s.entry m.entry).state = .armed ∧ ∃ w n due, (s.entry m.entry).watch = some w ∧
      w.defn.contract.start = .interval n ∧ w.dyn.due = some due) :
    ExpiriesTaken ms s (ms.foldl (fun s m => s.expire m.entry m.lateness) s) := by
  induction ms generalizing s with
  | nil => rfl
  | cons m ms ih =>
    obtain ⟨ha, w, n, due, hw, hs, hx⟩ := hm m (by simp)
    refine ⟨w, n, due, s.expire m.entry m.lateness, ha, hw, hs, hx, State.expire_spec ha hw hs hx m.lateness, ih _ ?_ ?_⟩
    · exact (List.nodup_cons.mp hd).2
    · intro x hxm
      have hne : m.entry ≠ x.entry := fun h =>
        (List.nodup_cons.mp hd).1 (List.mem_map.mpr ⟨x, hxm, h.symm⟩)
      rw [State.expire_entry_of_ne s m.lateness hne]
      exact hm x (by simp [hxm])

/-- A status settles in its place: the member's entry stands (R49). -/
theorem State.settled_entry (s : State) (m : DueMember) : (s.settled m).entry = m.entry := by
  simp only [State.settled]
  split <;> split <;> rfl

/-- R49, R63: every member takes the status it has by now. -/
theorem State.settled_spec (s : State) : s.Settled (s.dueList.map s.settled) := by
  unfold State.Settled
  induction s.dueList with
  | nil => exact .nil
  | cons m ms ih =>
    refine .cons ⟨State.settled_entry s m, fun w n due hw hs hd => ?_⟩ ih
    rw [State.settled_eq s hw hs hd]

end Sys2Proof.Machine
end

