-- ==== Sys2Proof/Tests/Slice0.lean ====
section
/-! SUPPORT. The model's own tests: what WellFormed refuses, the spec's worked examples, one step of each command, and for each
statement with hypotheses a state that meets them. -/

namespace Sys2Proof.Tests

open Sys2Proof Sys2Proof.Machine

/-! ### Helpers -/

/-- The state after a command. -/
def after (i : Instr) (s : State) : State :=
  match exec i s with
  | .next t => t
  | _ => s

/-- The response that port `p` holds, with its status, tag and data. -/
def answered (p : Port) (i : Instr) (s : State) : Option (Status × Byte × List Byte) :=
  match ((after i s).port p).window with
  | .ready r => some (r.status, r.tag, r.data)
  | _ => none

/-- A LEVEL contract: AIN3, range 1, settle 1, qualify 3, every cause in the mask. -/
def levelOn (st : Start) : Contract := ⟨.level 3 1 1, st, .standing, .hold, 3, 0x1F, .closed⟩

/-- A timing contract on DIN2, rising, limit or gate 5 ms. -/
def timingOf (k : TimingKind) (st : Start) : Contract := ⟨.timing k 2 .rising 5, st, .standing, .hold, 3, 0x1F, .closed⟩

/-- A watch of port A with bank A 1000/2000/100, as in the example of 8.10. -/
def watchOf (c : Contract) : Watch := ⟨⟨c, .a, some ⟨1000, 2000, 100⟩, none, .a⟩, Dynamic.atCreation⟩

def place (s : State) (i : EntryIndex) (st : EntryState) (a : Activity) (w : Watch) : State :=
  s.setEntry i ⟨st, 0, a, some w⟩

/-- The block of that LEVEL contract with start COMMAND. -/
def levelBlock : DefBlock where
  kind := 0
  input := 3
  rangeOrPolarity := 1
  start := 3
  lifetime := 0
  policy := 0
  share := 0
  settle := 1
  interval := 0
  gateOrLimit := 0
  qualify := 3
  notify := 0x1F
  bankA := ⟨1, 1000, 2000, 100⟩
  reserved := 0

/-- The block of a timing contract on DIN2, rising, 5 ms. -/
def timingBlock (kind : Byte) : DefBlock :=
  { levelBlock with kind := kind, input := 2, rangeOrPolarity := 0, gateOrLimit := 5 }

def commandWatch : Watch := watchOf (levelOn .command)

/-- Entry 5 carries an ARMED watch that commands start. -/
def armedState : State := place State.reset 5 .armed .none commandWatch

/-- Entry 5 carries the same watch in DEFINED. -/
def definedState : State := place State.reset 5 .defined .none commandWatch

/-- A window that executes a REFERENCE CHECK of tag 21h on port A. -/
def executingState : State := State.reset.setPort .a { State.reset.port .a with window := .executing 0x21 false }

def inReset : State := { State.reset with resetAsserted := true }

def aRequest (subs : List EntryIndex) : Request := ⟨.ain 3, 1, 1, subs⟩

/-- C0 converts a request of watch 5, 6 µs left. -/
def convertingState (subs : List EntryIndex) : State :=
  { place State.reset 5 .armed .converting commandWatch with
    conv0 := ⟨.converting, [], some (aRequest subs), false, 6, none⟩ }

/-- C0 holds the outcome 1500 for its subscribers. -/
def deliveringState (st : EntryState) (subs : List EntryIndex) : State :=
  { place (place State.reset 6 .armed .converting commandWatch) 5 st .converting commandWatch with
    conv0 := ⟨.converting, [], some (aRequest subs), false, 0, some ⟨.normal, some 1500⟩⟩ }

/-- E1 measures for watch 5, in the given state. -/
def measuringState (k : TimingKind) (st : EngineState) : State :=
  (place State.reset 5 .armed .measuring (watchOf (timingOf k .command))).setEngine 1
    ⟨st, some 5, some ⟨k, 2, .rising⟩, 5000, 0, 0, 7, if st = .reserved then some ⟨.normal, some 321⟩ else none⟩

/-- An INTERVAL watch of 1 ms in entry 5, with a due time. -/
def intervalWatch (due : DeviceTime) : Watch :=
  { watchOf (levelOn (.interval 10)) with dyn := { Dynamic.atCreation with due := some due } }

/-- That watch is the one member of the due list. -/
def dueState (due : DeviceTime) (l : Lateness) : State :=
  { place State.reset 5 .armed .none (intervalWatch due) with dueList := [⟨5, l⟩] }

/-- A line in a mode, with its pin and filtered level low. -/
def lineState (m : TrgMode) (sub : Option SubState) (waiting : Bool) : State :=
  State.reset.setLine .trg0 { State.reset.line .trg0 with mode := m, sub := sub, waiting := waiting }

/-- Both converters IDLE, so that they time nothing. -/
def quiet (s : State) : State :=
  { s with conv0 := ⟨.idle, [], none, false, 0, none⟩, conv1 := ⟨.idle, [], none, false, 0, none⟩ }

/-! ### WellFormed refuses one ill-formed term for each check -/

def creates (b : DefBlock) : Bool := (Instr.createWatch .a 0 b).wellFormed

theorem test_block_accepted : creates levelBlock = true := by decide
theorem test_block_kind : creates { levelBlock with kind := 4 } = false := by decide
theorem test_block_analog_input : creates { levelBlock with input := 16 } = false := by decide
theorem test_block_range : creates { levelBlock with rangeOrPolarity := 4 } = false := by decide
theorem test_block_timing_input : creates { timingBlock 1 with input := 8 } = false := by decide
theorem test_block_polarity : creates { timingBlock 1 with rangeOrPolarity := 2 } = false := by decide
theorem test_block_limit_zero : creates { timingBlock 2 with gateOrLimit := 0 } = false := by decide
theorem test_block_limit_high : creates { timingBlock 1 with gateOrLimit := 60001 } = false := by decide
theorem test_block_gate_zero : creates { timingBlock 3 with gateOrLimit := 0 } = false := by decide
theorem test_block_gate_high_accepted : creates { timingBlock 3 with gateOrLimit := 65535 } = true := by decide
theorem test_block_start : creates { levelBlock with start := 4 } = false := by decide
theorem test_block_interval : creates { levelBlock with start := 0, interval := 0 } = false := by decide
theorem test_block_lifetime : creates { levelBlock with lifetime := 2 } = false := by decide
theorem test_block_policy : creates { levelBlock with policy := 2 } = false := by decide
theorem test_block_share : creates { levelBlock with share := 2 } = false := by decide
theorem test_block_qualify_zero : creates { levelBlock with qualify := 0 } = false := by decide
theorem test_block_qualify_high : creates { levelBlock with qualify := 17 } = false := by decide
theorem test_block_notify : creates { levelBlock with notify := 0x20 } = false := by decide
theorem test_block_reserved : creates { levelBlock with reserved := 1 } = false := by decide
theorem test_bank_present : creates { levelBlock with bankA := ⟨2, 0, 1, 0⟩ } = false := by decide
theorem test_bank_absent_rest_ignored : creates { levelBlock with bankA := ⟨0, 5, 1, 0xFFFFFFFF⟩ } = true := by decide
theorem test_bank_order : creates { levelBlock with bankA := ⟨1, 7, 7, 0⟩ } = false := by decide
theorem test_bank_hysteresis_negative : creates { levelBlock with bankA := ⟨1, 0, 9, 0xFFFFFFFF⟩ } = false := by decide
theorem test_bank_hysteresis_wide : creates { levelBlock with bankA := ⟨1, 0, 9, 10⟩ } = false := by decide
theorem test_bank_low_limit : creates { levelBlock with bankA := ⟨1, 0xFFFFF7FF, 9, 0⟩ } = false := by decide
theorem test_bank_high_limit : creates { levelBlock with bankA := ⟨1, 0, 4096, 0⟩ } = false := by decide
theorem test_bank_timing_low : creates { timingBlock 1 with bankA := ⟨1, 0xFFFFFFFF, 9, 0⟩ } = false := by decide
theorem test_modifyWatch_handle : (Instr.modifyWatch .a 0 ⟨64, 0⟩ levelBlock).wellFormed = false := by decide
theorem test_modifyWatch_block : (Instr.modifyWatch .a 0 ⟨5, 0⟩ { levelBlock with kind := 4 }).wellFormed = false := by decide
theorem test_writeBank_handle : (Instr.writeBank .a 0 ⟨5, 16⟩ ⟨0, 0, 0, 0⟩).wellFormed = false := by decide
theorem test_writeBank_bank : (Instr.writeBank .a 0 ⟨5, 0⟩ ⟨2, 0, 0, 0⟩).wellFormed = false := by decide
theorem test_swapBank_handle : (Instr.swapBank .a 0 ⟨64, 0⟩).wellFormed = false := by decide
theorem test_arm_handle : (Instr.arm .a 0 ⟨63, 16⟩ 0).wellFormed = false := by decide
theorem test_disarm_handle : (Instr.disarm .a 0 ⟨64, 0⟩).wellFormed = false := by decide
theorem test_retire_handle : (Instr.retire .a 0 ⟨64, 0⟩).wellFormed = false := by decide
theorem test_sample_handle : (Instr.sample .a 0 ⟨64, 0⟩).wellFormed = false := by decide
theorem test_readWatch_handle : (Instr.readWatch .a 0 ⟨64, 0⟩).wellFormed = false := by decide
theorem test_readValue_handle : (Instr.readValue .a 0 ⟨64, 0⟩).wellFormed = false := by decide
theorem test_attentionEnable_value : (Instr.attentionEnable .a 0 2).wellFormed = false := by decide
theorem test_setCorrection_input : (Instr.setCorrection .a 0 16 0 0 0).wellFormed = false := by decide
theorem test_setCorrection_range : (Instr.setCorrection .a 0 15 4 0 0).wellFormed = false := by decide
theorem test_setCorrection_offset : (Instr.setCorrection .a 0 15 3 0 2048).wellFormed = false := by decide
theorem test_readCorrection_input : (Instr.readCorrection .a 0 16 0).wellFormed = false := by decide
theorem test_readCorrection_range : (Instr.readCorrection .a 0 0 4).wellFormed = false := by decide
theorem test_setFilter_input : (Instr.setFilter .a 0 8 0).wellFormed = false := by decide
theorem test_setFilter_setting : (Instr.setFilter .a 0 7 4).wellFormed = false := by decide
theorem test_triggerConfig_line : (Instr.triggerConfig .a 0 2 0 0).wellFormed = false := by decide
theorem test_triggerConfig_mode : (Instr.triggerConfig .a 0 1 3 0).wellFormed = false := by decide
theorem test_triggerConfig_edge : (Instr.triggerConfig .a 0 1 2 3).wellFormed = false := by decide
theorem test_triggerRearm_line : (Instr.triggerRearm .a 0 2).wellFormed = false := by decide
theorem test_trgTransition_examined : (Instr.trgTransition .trg0 .high 2 65).wellFormed = false := by decide
theorem test_waitingEdge_examined : (Instr.waitingEdge .trg0 129).wellFormed = false := by decide

/-! ### The spec's worked examples -/

/-- 6.7: each line's quotient held within its range, and its status. -/
theorem test_corrections_of_6_7 :
    ([(1, 2501, 32768, 0), (1, 3010, 32440, -12), (2, 1000, 33000, 5), (2, 2047, 16384, 0), (2, 2049, 65535, -1),
      (0, 4, 32768, -10), (1, 4090, 33000, 0), (3, 0, 32768, 0), (1, 4095, 32768, -20),
      (1, 1777, 0, 300)] : List (Fin 4 × Nat × Nat × Int)).map
      (fun x => conversionOutcome false ⟨x.2.2.1, x.2.2.2⟩ x.1 x.2.1) =
    [⟨.normal, some 2501⟩, ⟨.normal, some 2967⟩, ⟨.normal, some (-1050)⟩, ⟨.normal, some 0⟩, ⟨.normal, some 0⟩,
     ⟨.clipped, some 0⟩, ⟨.clipped, some 4095⟩, ⟨.clipped, some (-2048)⟩, ⟨.clipped, some 4075⟩, ⟨.normal, some 0⟩] := by
  decide

/-- R85: the steps of the four ranges, and the clamp codes at either end. -/
theorem test_raw_codes_of_R85 :
    [rawCode 0 499, rawCode 0 500, rawCode 1 2501000, rawCode 2 (-1), rawCode 2 0, rawCode 3 4096000, rawCode 3 (-5000000),
      rawCode 0 (-1), rawCode 1 4095999] = [0, 1, 2501, 2047, 2048, 4095, 0, 0, 4095] := by decide

/-- 8.10: the conditions after each of the nineteen deliveries under bank A. -/
theorem test_conditions_of_8_10 :
    let os : List Delivered :=
      ([1500, 1520, 2050, 1600, 1610, 1620, 2010, 1990, 2100, 2200].map fun v => ⟨.normal, some v⟩) ++ [⟨.fault, none⟩] ++
      ([2150, 2160, 4095, 1950, 1900, 950, 940, 930].map fun v => ⟨.normal, some v⟩)
    (os.foldl (fun (x : Watch × List Condition) o => let d := x.1.deliver o 0; (d.1, x.2 ++ [d.1.dyn.condition]))
      (commandWatch, [])).2 =
    List.replicate 5 .unknown ++ List.replicate 8 .inside ++ List.replicate 5 .above ++ [.below] := by decide

/-- 10.7: HOLD of tag 40h on port B, as it is sent and as it is answered. -/
theorem test_hold_exchange_of_10_7 :
    ((after (.responseRead .b 0xB1 ⟨6, true⟩) (after (.requestFrame .b (some 0xB0) [0x58, 0x40, 0x00, 0x68]) State.reset)).port .b).driven =
      [0x00, 0x40, 0x02, 0x00, 0x01, 0xBD] := by decide

/-- 10.7: the same frame with check byte 69h is answered FRAME_ERROR, 10h 40h 00h B0h. -/
theorem test_frame_error_of_10_7 :
    ((after (.responseRead .b 0xB1 ⟨4, true⟩) (after (.requestFrame .b (some 0xB0) [0x58, 0x40, 0x00, 0x69]) State.reset)).port .b).driven =
      [0x10, 0x40, 0x00, 0xB0] := by decide

/-- 10.7: the REFERENCE CHECK frame, and the response that carries the collision marker. -/
theorem test_check_frames_of_10_7 :
    encodeFrame (.referenceCheck .a 0x21) = some [0x60, 0x21, 0x00, 0x7F] ∧
    (Response.frame ⟨.ok, true, 0x21, [0x0B, 0xB9, 0x00, 0x0B, 0x7C, 0x01]⟩) =
      [0x80, 0x21, 0x06, 0x0B, 0xB9, 0x00, 0x0B, 0x7C, 0x01, 0x0D] := by decide

/-- R177, R179: the frame of ARM 5/0 with first delay 1234h, written out. -/
theorem test_arm_frame : decodeFrame .a [0x14, 0x01, 0x04, 0x05, 0x00, 0x12, 0x34, 0x9C] = .command (.arm .a 0x01 ⟨5, 0⟩ 0x1234) := by
  decide

/-- R177: a CREATE WATCH block read at its offsets. -/
theorem test_block_offsets :
    decodeCommand .b 9 0x10
      [3, 2, 1, 2, 1, 1, 1, 0xFF, 0x12, 0x34, 0x56, 0x78, 16, 0x1F, 1, 0xFF, 0xFF, 0xF8, 0x00, 0, 0, 0x0F, 0xFF, 0, 0, 0, 7, 0] =
    some (.createWatch .b 9 ⟨3, 2, 1, 2, 1, 1, 1, 0xFF, 0x1234, 0x5678, 16, 0x1F, ⟨1, 0xFFFFF800, 0xFFF, 7⟩, 0⟩) := by decide

/-! ### One step of each command -/

theorem test_identify : answered .a (.identify .a 9) State.reset = some (.ok, 9, [0x0C, 0xC0, 1, 64, 2, 8, 4, 16, 8, 2]) := by
  decide
theorem test_createWatch_lowest_free :
    answered .b (.createWatch .b 1 levelBlock) (place State.reset 0 .retiring .converting commandWatch) = some (.ok, 1, [1, 0]) := by
  decide
theorem test_createWatch_owner :
    ((after (.createWatch .b 1 levelBlock) State.reset).entry 0).watch.map (·.defn.owner) = some .b := by decide
theorem test_modifyWatch_armed_measure_refused :
    answered .a (.modifyWatch .a 1 ⟨5, 0⟩ { levelBlock with input := 4 }) armedState = some (.badState, 1, []) := by decide
theorem test_modifyWatch_defined :
    ((after (.modifyWatch .a 1 ⟨5, 0⟩ { levelBlock with input := 4 }) definedState).entry 5).watch.map (·.defn.contract.measure) =
      some (.level 4 1 1) := by decide
theorem test_writeBank_inactive :
    ((after (.writeBank .a 1 ⟨5, 0⟩ ⟨1, 900, 1800, 50⟩) armedState).entry 5).watch.map (fun w => (w.defn.bankA, w.defn.bankB)) =
      some (some ⟨1000, 2000, 100⟩, some ⟨900, 1800, 50⟩) := by decide
theorem test_swapBank_absent_inactive : answered .a (.swapBank .a 1 ⟨5, 0⟩) armedState = some (.badState, 1, []) := by decide
theorem test_arm_delay_on_command_start :
    answered .a (.arm .a 1 ⟨5, 0⟩ 1) definedState = some (.badParameter, 1, []) := by decide
theorem test_arm_due_time :
    ((after (.arm .a 1 ⟨5, 0⟩ 3) (place State.reset 5 .defined .none (watchOf (levelOn (.interval 10))))).entry 5).watch.bind
      (·.dyn.due) = some 30 := by decide
theorem test_disarm_queued :
    let s := after (.disarm .a 1 ⟨5, 0⟩) (after (.sample .a 1 ⟨5, 0⟩) armedState)
    s.conv0.queue = [] ∧ (s.entry 5).state = .defined ∧ (s.entry 5).activity = .none := by decide
theorem test_retire_converting : ((after (.retire .a 1 ⟨5, 0⟩) (convertingState [5])).entry 5).state = .retiring := by decide
theorem test_retire_generation : ((after (.retire .a 1 ⟨5, 0⟩) armedState).entry 5) = ⟨.free, 1, .none, none⟩ := by decide
theorem test_sample_started : answered .a (.sample .a 1 ⟨5, 0⟩) armedState = some (.ok, 1, [0]) := by decide
theorem test_sample_joined :
    answered .a (.sample .a 1 ⟨5, 0⟩) (after (.sample .a 1 ⟨6, 0⟩) (place armedState 6 .armed .none commandWatch)) =
      some (.ok, 1, [1]) := by decide
theorem test_readWatch_length : (answered .a (.readWatch .a 1 ⟨5, 0⟩) armedState).map (·.2.2.length) = some 46 := by decide
theorem test_readValue_clears_overruns :
    let w : Watch := { commandWatch with dyn := { Dynamic.atCreation with overruns := 9 } }
    ((after (.readValue .a 1 ⟨5, 0⟩) (place State.reset 5 .armed .none w)).entry 5).watch = some commandWatch := by decide
theorem test_listWatches : (answered .b (.listWatches .b 1) armedState).map (fun x => x.2.2.drop 16) =
    some [0x20, 0, 0, 0, 0, 0, 0, 0] := by decide

/-- Port A's attention set names entries 5 and 9, the cursor past both. -/
def attentiveState : State :=
  (place armedState 9 .armed .none commandWatch).setAttention .a
    ⟨((Vector.replicate 64 0).set 5 0b00010).set 9 0b01000, 10, true⟩

theorem test_fetchAttention_wraps :
    answered .a (.fetchAttention .a 1) attentiveState = some (.ok, 1, [5, 0, 0b00010, 1]) := by decide
theorem test_fetchAttention_last_releases_line :
    let s := after (.fetchAttention .a 2) (after (.fetchAttention .a 1) attentiveState)
    s.attentionLine .a = false ∧ s.attentionA.cursor = 10 := by decide
theorem test_attentionEnable_on : (after (.attentionEnable .a 1 1) State.reset).attentionA.enable = true := by decide
theorem test_setCorrection :
    answered .a (.setCorrection .a 1 3 1 0x7EB8 0xFFF4) State.reset = some (.ok, 1, [3, 1, 0x7E, 0xB8, 0xFF, 0xF4]) := by decide
theorem test_readCorrection_identity :
    answered .a (.readCorrection .a 1 15 3) State.reset = some (.ok, 1, [15, 3, 0x80, 0, 0, 0]) := by decide
theorem test_setFilter_busy :
    answered .a (.setFilter .a 1 2 3) (measuringState .period .awaitStart) = some (.inputBusy, 1, []) := by decide
theorem test_readInputs_filters :
    (answered .a (.readInputs .a 1) (after (.setFilter .a 1 2 3) State.reset)).map (fun x => x.2.2.take 9) =
      some [0, 0, 0, 3, 0, 0, 0, 0, 0] := by decide
theorem test_triggerConfig_once_ready :
    ((after (.triggerConfig .a 1 0 2 1) (lineState .once (some .spent) false)).line .trg0).sub = some .ready := by decide
theorem test_triggerRearm_every : answered .a (.triggerRearm .a 1 0) (lineState .every none false) = some (.badState, 1, []) := by
  decide
theorem test_hold : answered .a (.hold .a 1) { State.reset with holdB := true } = some (.ok, 1, [1, 1]) := by decide
set_option maxRecDepth 4096 in
/-- R49, R50: an ARM of delay 0 under a hold is PAST_DUE at once, so the RESUME starts it and it keeps its phase. -/
theorem test_hold_arm_resume :
    let s := after (.resume .a ⟨3, [], []⟩) (after (.arm .a 2 ⟨5, 0⟩ 0) (after (.hold .a 1)
      (place State.reset 5 .defined .none (watchOf (levelOn (.interval 10))))))
    (s.entry 5).activity = .queued ∧ (s.entry 5).watch.map (·.dyn.due) = some (some 100) := by decide
set_option maxRecDepth 4096 in
/-- R49, R64, R161: at due time plus interval a member is LATE, so its new due time is later than now; a fetch of the other port
before the expiry finds nothing, and one after it finds the late overrun. -/
theorem test_resume_at_one_interval :
    let s := fun c => after (.resume .b ⟨1, [⟨c, .transaction (some 0x57) [0x30, 9, 0, 0xC7]⟩], []⟩)
      { dueState 0 .pastDue with holdB := true, now := 100 }
    ((s (.service 0)).entry 5).watch.map (fun w => (w.dyn.due, w.dyn.overruns)) = some (some 200, 1) ∧
    ((s (.expiry 5)).port .a).window = .ready ⟨.empty, false, 9, []⟩ ∧
    ((s (.service 0)).port .a).window = .ready ⟨.ok, false, 9, [5, 0, 0b00100, 0]⟩ := by decide
set_option maxRecDepth 4096 in
/-- R64; and R26, R49: a member that a MODIFY WATCH of the other port makes LATE before its claim is expired as a LATE one. -/
theorem test_resume_last_claim :
    let s := after (.resume .a ⟨1, [], []⟩) { dueState 0 .pastDue with holdA := true }
    let shorter := encodeFrame (.modifyWatch .a 9 ⟨5, 0⟩ { levelBlock with start := 0, interval := 1 })
    let t := after (.resume .b ⟨1, [⟨.expiry 5, .transaction (some 0x57) (shorter.getD [])⟩], []⟩)
      { dueState 0 .pastDue with holdB := true, now := 20 }
    s.dueList = [⟨5, .onTime⟩] ∧ (s.entry 5).activity = .queued ∧ t.dueList = [⟨5, .onTime⟩] ∧
    (t.entry 5).watch.map (fun w => (w.dyn.due, w.dyn.overruns)) = some (some 30, 1) := by decide
theorem test_referenceCheck_executing :
    let s := after (.referenceCheck .a 0x21) State.reset
    (s.port .a).window = .executing 0x21 false ∧ s.conv1.queue = [⟨.checkSource, 1, 10, []⟩] := by decide
theorem test_readConverters :
    answered .a (.readConverters .a 1) (convertingState [5]) = some (.ok, 1, [3, 0, 1, 3, 0, 0, 0, 0, 0, 0, 0, 0, 0]) := by decide
set_option maxRecDepth 4096 in
/-- R41, R170, R184: a frame that the port writes before the answer marks it. -/
theorem test_portReset :
    let t := after (.portReset .a ⟨1, [], [.read 2, .write]⟩) armedState
    t.entry 5 = ⟨.free, 1, .none, none⟩ ∧ (t.port .a).window = .ready ⟨.ok, true, 1, []⟩ ∧ (t.port .a).bus = .discarding := by
  decide
set_option maxRecDepth 4096 in
/-- R41: a delivery taken before the retirement finds the watch ARMED, and the retirement then frees its entry. -/
theorem test_portReset_after_delivery :
    ((after (.portReset .a ⟨1, [⟨.retirement 5, .delivery (.converter .c0 5)⟩], []⟩) (deliveringState .armed [5])).entry 5).state =
      .free := by decide
theorem test_requestFrame_bad_length :
    answered .a (.requestFrame .a (some 0x57) [0x58, 7, 1, 0, 0xA0]) State.reset = some (.badLength, 7, []) := by decide
theorem test_partialFrameDiscard :
    ((after (.partialFrameDiscard .a) (after (.requestFrame .a (some 0x57) [0x58, 7]) State.reset)).port .a).window = .idle := by
  decide
theorem test_collidingWrite_marks : ((after (.collidingWrite .a) executingState).port .a).window = .executing 0x21 true := by decide
theorem test_responseRead_pending : ((after (.responseRead .a 0x52 ⟨2, true⟩) executingState).port .a).driven = [0, 1, 1] := by decide
/-- R172: a read that goes on to the response's last byte consumes it at its end. -/
theorem test_responseRead_in_pieces :
    let s := after (.requestFrame .a none [0, 0]) (after (.responseRead .a 0x52 ⟨2, false⟩)
      (State.reset.setPort .a { State.reset.port .a with window := .ready ⟨.ok, false, 7, []⟩ }))
    (s.port .a).driven = [0, 0, 7, 0, 0xF9] ∧ ((after (.partialFrameDiscard .a) s).port .a).window = .idle := by decide
/-- R175: SCL rests low after a byte; a transaction whose SCL has risen and stays high is not abandoned. -/
theorem test_stallTimeout :
    let s := after (.requestFrame .b (some 0xB0) [0x58, 7]) (quiet State.reset)
    let low := after .stallTimeout s
    let high := after .stallTimeout (after (.requestFrame .b none []) s)
    (low.port .b).window = .idle ∧ low.now = 2500 ∧ (high.port .b).window = .receiving [0x58, 7] ∧ high.now = 0 := by decide

/-- Pins with DIN7 and TRG1 high and ADR = 3. -/
def somePins : PinLevels := ⟨.low, .high, (Vector.replicate 8 .low).set 7 .high, 3⟩

theorem test_powerOnReset :
    let s := after (.powerOnReset somePins) armedState
    (s.entry 5).generation = 0 ∧ s.trg1.level = .high ∧ (s.din 7).level = .high ∧ s.addressB = 0x5B := by decide
theorem test_resetAssertion_generations :
    let s := after .resetAssertion (place State.reset 5 .retiring .converting commandWatch)
    (s.entry 5).generation = 1 ∧ (s.entry 6).generation = 0 := by decide
theorem test_becomePastDue :
    (after (.becomePastDue 5) { dueState 7 .onTime with holdA := true }).dueList = [⟨5, .pastDue⟩] := by decide
theorem test_becomeLate_at_one_interval :
    let s := after (.becomeLate 5) { dueState 7 .pastDue with holdA := true }
    s.dueList = [⟨5, .late⟩] ∧ s.now = 107 := by decide
theorem test_intervalExpiry_reschedules :
    let s := after .intervalExpiry (dueState 7 .onTime)
    (s.entry 5).watch.bind (·.dyn.due) = some 107 ∧ (s.entry 5).activity = .queued ∧ s.now = 7 := by decide
set_option maxRecDepth 4096 in
theorem test_trgTransition_fans_out :
    let s := (place State.reset 5 .armed .none (watchOf (levelOn (.trg .trg0)))).setLine .trg0
      { State.reset.line .trg0 with mode := .once, sub := some .ready }
    let t := after (.trgTransition .trg0 .high 2 64) s
    (t.entry 5).activity = .queued ∧ (t.line .trg0).sub = some .spent ∧ (t.line .trg0).count = 1 := by decide
/-- R69: a pulse of exactly 2 µs has two transitions, the second 2 µs after the first. -/
theorem test_trgTransition_pulse_of_2 :
    let s := after (.dinTransition 0 .low 1) (after (.trgTransition .trg0 .high 1 64) State.reset)
    let t := after (.trgTransition .trg0 .low 0 64) s
    (s.line .trg0).level = .low ∧ (t.line .trg0).level = .high ∧
      ((after (.trgTransition .trg0 .low 2 64) t).line .trg0).level = .low := by decide
theorem test_waitingEdge_spent :
    let s := after (.waitingEdge .trg0 64) (lineState .once (some .spent) true)
    (s.line .trg0).waiting = false ∧ (s.line .trg0).count = 0 := by decide
/-- R73: the fan-out ends, and the edge that waited begins the next one. -/
theorem test_waitingEdge_fans_out_again :
    let s := lineState .every none true
    ((after (.waitingEdge .trg0 7) (s.setLine .trg0 { s.line .trg0 with fanOut := some 60 })).line .trg0).fanOut = some 3 := by
  decide
theorem test_warmupExpiry : (after (.warmupExpiry .c0) State.reset).now = 200 := by decide
theorem test_requestStart_settle_zero :
    let s := after (.requestStart .c0) { State.reset with conv0 := ⟨.idle, [⟨.ain 3, 1, 0, []⟩], none, false, 0, none⟩ }
    s.conv0.state = .converting ∧ s.conv0.timer = 6 := by decide
theorem test_settleExpiry :
    let s := after (.settleExpiry .c0) { State.reset with conv0 := ⟨.settling, [], some (aRequest [5]), false, 10, none⟩ }
    s.conv0.state = .converting ∧ s.micro = 0 ∧ s.now = 1 := by decide
theorem test_conversionCompletion :
    (after (.conversionCompletion .c0 2501000) (convertingState [5])).conv0.delivering = some ⟨.normal, some 2501⟩ := by decide

/-- C0 converts its CHECK request; C1's result is in, code 2940. -/
def checkState : State :=
  { executingState with
    conv0 := ⟨.converting, [], some Request.check, false, 6, none⟩
    check := ⟨some .a, none, some ⟨2940, false⟩⟩ }

theorem test_checkCompletion_answers :
    answered .a (.checkCompletion .c0 3001000) checkState = some (.ok, 0x21, [0x0B, 0xB9, 0, 0x0B, 0x7C, 1]) := by decide
theorem test_checkCompletion_limits :
    [checkPasses 2987, checkPasses 2988, checkPasses 3012, checkPasses 3013] = [false, true, true, false] := by decide
theorem test_dinTransition_starts_timing :
    ((after (.dinTransition 2 .high 0) (measuringState .period .awaitStart)).engine 1).state = .timing := by decide
/-- R115: a level that has held for the 2 µs of the filter is a transition, though the pin then reverts. -/
theorem test_dinTransition_held_just_long_enough :
    let s := (State.reset.setDin 0 ⟨.us2, .low, .low, 0⟩).setDin 1 ⟨.us2, .low, .low, 0⟩
    let t := after (.dinTransition 0 .low 0) (after (.dinTransition 1 .high 2) (after (.dinTransition 0 .high 0) s))
    (t.din 0).level = .high ∧ (t.din 0).raw = .low := by decide
/-- R125: a NORMAL time is less than the limit. -/
theorem test_normal_below_limit :
    (Engine.onTransition ⟨.timing, some 5, some ⟨.period, 2, .rising⟩, 5000, 5000, 5000, 0, none⟩ ⟨.period, 2, .rising⟩
      .high).outcome = some ⟨.normal, some 4999⟩ := by decide
theorem test_limitExpiry :
    ((after (.limitExpiry 1) { measuringState .period .timing with
      conv0 := ⟨.idle, [], none, false, 0, none⟩, conv1 := ⟨.idle, [], none, false, 0, none⟩ }).engine 1).outcome =
      some ⟨.stalled, some 5000⟩ := by decide
theorem test_gateExpiry :
    ((after (.gateExpiry 1) { measuringState .edgeCount .gating with
      conv0 := ⟨.idle, [], none, false, 0, none⟩, conv1 := ⟨.idle, [], none, false, 0, none⟩ }).engine 1).outcome =
      some ⟨.normal, some 7⟩ := by decide
theorem test_delivery_engine :
    let s := after (.delivery (.engine 1)) (measuringState .period .reserved)
    (s.entry 5).activity = .none ∧ (s.engine 1).state = .free := by decide
theorem test_delivery_retiring :
    ((after (.delivery (.converter .c0 5)) (deliveringState .retiring [5])).entry 5).state = .free := by decide
theorem test_resetDeassertion :
    let s := after (.resetDeassertion somePins) inReset
    s.resetAsserted = false ∧ s.trg1.level = .high ∧ s.addressB = 0x5B := by decide
theorem test_idle_counts_a_microsecond : step State.reset = .next (State.reset.elapse 1) := by rfl

/-! ### A state and operands that meet each statement's hypotheses, clause by clause -/

theorem witness_StepRunsFrontOfQueue :
    ({ State.reset with pending := [.hold .a 0] } : State).pending = .hold .a 0 :: [] := rfl
theorem witness_DeviceTimeCountsTenMicroseconds :
    State.reset.pending = [] ∧ State.reset.resetAsserted = false ∧ State.reset.nextEvent = none ∧
    (State.reset.engine 0).state = .free ∧ ((measuringState .period .awaitStart).engine 1).state = .awaitStart ∧
    ((measuringState .period .timing).engine 1).state = .timing ∧ State.reset.portB.bus = .none ∧
    (after (.requestFrame .b (some 0xB0) [0x58]) State.reset).portB.bus ≠ .none := by decide

/-- C1 settles its CHECK request while C0 converts for watch 5. -/
def bothState : State :=
  { convertingState [5] with
    conv1 := ⟨.settling, [aRequest [6]], some Request.check, true, 40, none⟩
    check := ⟨some .a, none, none⟩ }

theorem witness_IdentifyAndReadConvertersReport :
    bothState.accepts .b = true ∧ (State.reset.converter .c0).current = none ∧
    (bothState.converter .c0).current = some (aRequest [5]) ∧ (aRequest [5]).source = .ain 3 ∧
    (bothState.converter .c1).current = some Request.check ∧ Request.check.source = .checkSource ∧
    (∃ r ∈ (bothState.converter .c1).current.toList ++ (bothState.converter .c1).queue, r.isCheck = true) ∧
    (∀ r ∈ (bothState.converter .c0).current.toList ++ (bothState.converter .c0).queue, r.isCheck = false) := by decide

theorem witness_ListWatchesReportsThreeSets : armedState.accepts .a = true := by decide

theorem witness_ReadInputsReportsPinsAndLines : State.reset.accepts .b = true := by decide

/-- A SHARED watch with an outcome, a candidate and a due time. -/
def fullWatch : Watch :=
  { intervalWatch 77 with
    defn := { (intervalWatch 77).defn with contract := { levelOn (.interval 10) with share := .shared } }
    dyn := ⟨some ⟨.clipped, -3, 9⟩, 4, .inside, some ⟨.above, 2⟩, false, true, 255, some 77⟩ }

def fullState : State := place State.reset 63 .armed .none fullWatch

theorem names_armed : armedState.Names ⟨5, 0⟩ 5 commandWatch := ⟨by decide, by decide, by decide, by decide⟩

theorem names_full : fullState.Names ⟨63, 0⟩ 63 fullWatch := ⟨by decide, by decide, by decide, by decide⟩

/-- The owner reads, and the other port reads a SHARED watch; the block and bank read back as contract and window. -/
theorem witness_WatchReadsReportTheEntry :
    armedState.Names ⟨5, 0⟩ 5 commandWatch ∧ fullState.Names ⟨63, 0⟩ 63 fullWatch ∧
    (∀ n, commandWatch.defn.contract.start ≠ .interval n) ∧
    (measuringState .period .timing).Names ⟨5, 0⟩ 5 (watchOf (timingOf .period .command)) ∧ armedState.accepts .a = true ∧
    commandWatch.defn.owner = .a ∧ blockContract levelBlock = some commandWatch.defn.contract ∧
    commandWatch.defn.bankB = none ∧ commandWatch.defn.bankA = some ⟨1000, 2000, 100⟩ ∧ commandWatch.dyn.outcome = none ∧
    commandWatch.dyn.due = none ∧ fullState.accepts .b = true ∧ fullWatch.defn.contract.share = .shared ∧
    fullWatch.defn.owner ≠ .b ∧ fullWatch.dyn.outcome = some ⟨.clipped, -3, 9⟩ ∧
    fullWatch.dyn.candidate = some ⟨.above, 2⟩ ∧ fullWatch.dyn.due = some 77 ∧ commandWatch.dyn.candidate = none ∧
    commandWatch.defn.contract.measure = .level 3 1 1 ∧ (measuringState .period .timing).accepts .a = true ∧
    (watchOf (timingOf .period .command)).defn.contract.measure = .timing .period 2 .rising 5 :=
  ⟨names_armed, names_full, fun _ h => Start.noConfusion h, ⟨by decide, by decide, by decide, by decide⟩, by decide⟩

theorem witness_ExecutingWindowDiscardsCommands :
    commandParts (.hold .a 7) = some (.a, 7, 0x58, []) ∧ executingState.resetAsserted = false ∧
    (executingState.port .a).window = .executing 0x21 false := by decide

theorem witness_IllFormedCommandsAreRefused :
    commandParts (.triggerRearm .a 1 2) = some (.a, 1, 0x51, [2]) ∧ (Instr.triggerRearm .a 1 2).wellFormed = false ∧
    State.reset.accepts .a = true := by decide

theorem witness_FramesReadBackAsTheirCommands :
    commandParts (.arm .a 1 ⟨5, 0⟩ 0x1234) = some (.a, 1, 0x14, [0x05, 0x00, 0x12, 0x34]) := by decide

theorem witness_RequestFrameRunsItsCommand :
    commandParts (.hold .b 0x40) = some (.b, 0x40, 0x58, []) ∧ encodeFrame (.hold .b 0x40) = some [0x58, 0x40, 0x00, 0x68] ∧
    State.reset.accepts .b = true ∧ ∃ t, exec (Instr.asSent (.hold .b 0x40)) State.reset = .next t :=
  ⟨by decide, by decide, by decide, _, rfl⟩

/-- A wrong sum; a length byte of 41 with a right sum; an unlisted code; a length byte of 40, which is no frame error. -/
theorem witness_BadFramesAreAnsweredAtThePort :
    State.reset.accepts .a = true ∧
    (let f : List Byte := [0x58, 0x40, 0x00, 0x69]
     frameLength f = some f.length ∧ byteSum f ≠ 0) ∧
    (let f : List Byte := [0x58, 0, 41] ++ List.replicate 41 0 ++ [0x7F]
     frameLength f = some f.length ∧ byteSum f = 0 ∧ 40 < (byteAt f 2).toNat) ∧
    (let f : List Byte := [0x02, 0, 0, 0xFE]
     frameLength f = some f.length ∧ byteSum f = 0 ∧ commandLength (byteAt f 0) = none) ∧
    (let f : List Byte := [0x58, 0, 40] ++ List.replicate 40 0 ++ [0x80]
     frameLength f = some f.length ∧ byteSum f = 0 ∧ ¬ 40 < (byteAt f 2).toNat ∧ commandLength (byteAt f 0) = some 0) := by
  decide

theorem witness_FramesArriveInPieces :
    State.reset.accepts .b = true ∧ ([0x58, 0x40, 0x00] : List Byte) ≠ [] ∧
    (quiet State.reset).accepts .b = true ∧
    (after (.requestFrame .b (some 0xB0) [0x58, 0x40, 0x00]) (quiet State.reset)).NothingSooner 25000 ∧
    ∀ n, frameLength [0x58, 0x40, 0x00] = some n → ([0x58, 0x40, 0x00] : List Byte).length < n := by
  refine ⟨by decide, by decide, by decide, by unfold State.NothingSooner; decide, fun n h => ?_⟩
  have : n = 4 := by simpa [frameLength, eq_comm] using h
  subst this
  decide

theorem witness_CollidingWriteMarksTheWindow :
    executingState.resetAsserted = false ∧ (executingState.port .a).window = .executing 0x21 false := by decide

def readyState : State :=
  State.reset.setPort .a { State.reset.port .a with window := .ready ⟨.ok, false, 7, [1, 2]⟩ }

/-- Port B holds a response, and nothing else of the part is timed. -/
def quietReady : State :=
  quiet (State.reset.setPort .b { State.reset.port .b with window := .ready ⟨.ok, false, 7, [1, 2]⟩ })

set_option maxRecDepth 8192 in
theorem witness_ResponseReadsFollowTheWindow :
    (after (.requestFrame .b (some (quietReady.readOpening .b)) [0, 0]) quietReady).NothingSooner 25000 ∧
    (∃ u, exec (.partialFrameDiscard .a) readyState = .next u) ∧
    readyState.resetAsserted = false ∧ (readyState.port .a).window = .ready ⟨.ok, false, 7, [1, 2]⟩ ∧
    (executingState.port .a).window = .executing 0x21 false ∧ (State.reset.port .a).window = .idle ∧
    (∀ s ∈ [readyState, executingState, State.reset], (s.port .a).bus = .none) ∧
    quietReady.resetAsserted = false ∧ (quietReady.port .b).bus = .none ∧
    (quietReady.port .b).window = .ready ⟨.ok, false, 7, [1, 2]⟩ ∧
    (List.replicate 255 (0 : Byte)).length < 256 := by
  refine ⟨?_, ⟨_, rfl⟩, by decide⟩
  unfold State.NothingSooner
  decide
theorem witness_ForeignTransactionsHaveNoEffect :
    readyState.resetAsserted = false ∧ (0x53 : Byte) ≠ readyState.readOpening .a ∧ (0x53 : Byte) ≠ readyState.writeOpening .a ∧
    (∀ held, (readyState.port .a).window ≠ .receiving held) ∧
    ∀ found sent, (readyState.port .a).bus ≠ .reading found sent :=
  ⟨by decide, by decide, by decide, fun _ h => CommandWindow.noConfusion h, fun _ _ h => Bus.noConfusion h⟩

theorem witness_ResetLineResetsAllButTheCorrections :
    armedState.resetAsserted = false ∧ (armedState.entry 6).state = .free ∧ (armedState.entry 5).state ≠ .free ∧
    inReset.resetAsserted = true := by decide

theorem witness_NothingHappensWhileResetIsAsserted :
    inReset.resetAsserted = true ∧ (∀ pins, Instr.hold .a 0 ≠ .powerOnReset pins) ∧
    ∀ pins, Instr.hold .a 0 ≠ .resetDeassertion pins :=
  ⟨by decide, fun _ h => Instr.noConfusion h, fun _ h => Instr.noConfusion h⟩

/-- The first index and generation out of range and the last within it; a FREE, a RETIRING and another generation's entry. -/
theorem witness_HandleChecksAreMadeInOrder :
    namesWatch (.sample .a 1 ⟨64, 0⟩) = some (.a, 1, ⟨64, 0⟩) ∧ armedState.accepts .a = true ∧
    64 ≤ (Handle.mk 64 0).index.toNat ∧ 16 ≤ (Handle.mk 63 16).generation.toNat ∧
    (Handle.mk 63 15).index.toNat = (63 : EntryIndex).val ∧ (Handle.mk 63 15).generation.toNat < 16 ∧
    (Instr.sample .a 1 ⟨63, 15⟩).wellFormed = true ∧ (armedState.entry 63).state = .free ∧
    ((deliveringState .retiring [5]).entry 5).state = .retiring ∧ (armedState.entry 5).state ≠ .free ∧
    (armedState.entry 5).state ≠ .retiring ∧ (armedState.entry 5).generation.toNat ≠ (Handle.mk 5 15).generation.toNat := by
  decide

theorem witness_NonOwnersAreRefused :
    fullState.Names ⟨63, 0⟩ 63 fullWatch ∧ armedState.Names ⟨5, 0⟩ 5 commandWatch ∧
    namesWatch (.sample .b 1 ⟨63, 0⟩) = some (.b, 1, ⟨63, 0⟩) ∧ (Instr.sample .b 1 ⟨63, 0⟩).wellFormed = true ∧
    fullState.accepts .b = true ∧ fullWatch.defn.owner ≠ .b ∧ readsWatch (.sample .b 1 ⟨63, 0⟩) = false ∧
    namesWatch (.readValue .b 1 ⟨5, 0⟩) = some (.b, 1, ⟨5, 0⟩) ∧ (Instr.readValue .b 1 ⟨5, 0⟩).wellFormed = true ∧
    armedState.accepts .b = true ∧ commandWatch.defn.owner ≠ .b ∧ commandWatch.defn.contract.share = .closed :=
  ⟨names_full, names_armed, by decide⟩

/-- Every entry but the last carries a watch; and then the last one too, RETIRING. -/
def crowded : State :=
  { State.reset with entries := (Vector.replicate 64 ⟨.defined, 0, .none, some commandWatch⟩).set 63 Entry.powerOn }

theorem witness_CreateWatchTakesTheLowestFreeEntry :
    crowded.accepts .b = true ∧ blockCreation levelBlock = some (levelOn .command, some ⟨1000, 2000, 100⟩) ∧
    (crowded.entry 63).state = .free ∧ (∀ j : EntryIndex, j < 63 → (crowded.entry j).state ≠ .free) ∧
    (place crowded 63 .retiring .converting commandWatch).accepts .b = true ∧
    ∀ i, ((place crowded 63 .retiring .converting commandWatch).entry i).state ≠ .free := by decide

/-- A block of each kind, and the widest and narrowest windows of R3. -/
theorem witness_DefinitionTestReadsTheBlock :
    blockContract levelBlock = some (levelOn .command) ∧
    blockContract (timingBlock 1) = some (timingOf .period .command) ∧
    blockContract (timingBlock 2) = some (timingOf .highTime .command) ∧
    blockContract { timingBlock 3 with gateOrLimit := 65535, start := 2 } =
      some { timingOf .edgeCount (.trg .trg1) with measure := .timing .edgeCount 2 .rising 65535 } ∧
    blockContract { timingBlock 1 with gateOrLimit := 60000, start := 1, rangeOrPolarity := 1 } =
      some { timingOf .period (.trg .trg0) with measure := .timing .period 2 .falling 60000 } ∧
    blockContract { levelBlock with start := 0, interval := 1, lifetime := 1, policy := 1, share := 1, qualify := 16 } =
      some ⟨.level 3 1 1, .interval 1, .once, .drop, 16, 0x1F, .shared⟩ ∧
    decodeBank ⟨1, 0xFFFFF800, 0xFFF, 6143⟩ (-2048, 4095) = none ∧
    decodeBank ⟨1, 0xFFFFF800, 0xFFF, 4095⟩ (-2048, 4095) = some (some ⟨-2048, 4095, 4095⟩) := by decide

theorem commands_armed : armedState.Commands .a ⟨5, 0⟩ 5 commandWatch := ⟨by decide, names_armed, by decide⟩

theorem commands_defined : definedState.Commands .a ⟨5, 0⟩ 5 commandWatch :=
  ⟨by decide, ⟨by decide, by decide, by decide, by decide⟩, by decide⟩

/-- A watch in DEFINED whose bank lies below zero, which no timing kind admits. -/
def negativeWatch : Watch := { commandWatch with defn := { commandWatch.defn with bankA := some ⟨-5, 5, 1⟩ } }

def negativeState : State := place State.reset 5 .defined .none negativeWatch

def lateDefinedState : State := place State.reset 5 .defined .converting commandWatch

/-- A PAST_DUE watch due at 0, seen at device time 10: an interval of 1 ends just then, one of 2 later. -/
def pastDueState : State := { dueState 0 .pastDue with holdA := true, now := 10 }

def intervalBlock (n : Half) : DefBlock := { levelBlock with start := 0, interval := n }

theorem commands_pastDue : pastDueState.Commands .a ⟨5, 0⟩ 5 (intervalWatch 0) :=
  ⟨by decide, ⟨by decide, by decide, by decide, by decide⟩, by decide⟩

theorem witness_ModifyWatchInDefined :
    definedState.Commands .a ⟨5, 0⟩ 5 commandWatch ∧ blockContract (timingBlock 1) = some (timingOf .period .command) ∧
    (definedState.entry 5).state = .defined ∧ commandWatch.dyn.heldTrigger = false ∧ (definedState.entry 5).activity = .none ∧
    (∀ k t, commandWatch.defn.bank k = some t → t.within (timingOf .period .command).measure.kind.limits = true) ∧
    negativeState.Commands .a ⟨5, 0⟩ 5 negativeWatch ∧
    (¬ ∀ k t, negativeWatch.defn.bank k = some t → t.within (timingOf .period .command).measure.kind.limits = true) ∧
    lateDefinedState.Commands .a ⟨5, 0⟩ 5 commandWatch ∧ (lateDefinedState.entry 5).activity ≠ .none := by
  refine ⟨commands_defined, by decide, by decide, by decide, by decide, ?_, ⟨by decide, ⟨by decide, by decide, by decide,
    by decide⟩, by decide⟩, fun h => ?_, ⟨by decide, ⟨by decide, by decide, by decide, by decide⟩, by decide⟩, by decide⟩
  · intro k t h
    cases k
    · have ht : t = ⟨1000, 2000, 100⟩ := (Option.some.inj h).symm
      subst ht
      decide
    · cases h
  · exact absurd (h .a ⟨-5, 5, 1⟩ rfl) (by decide)

/-- In ARMED: a block that differs in input; one that differs in qualify; a new interval of 1, which is late, and of 2, not. -/
theorem witness_ModifyWatchChangesTheDefinition :
    armedState.Commands .a ⟨5, 0⟩ 5 commandWatch ∧ pastDueState.Commands .a ⟨5, 0⟩ 5 (intervalWatch 0) ∧
    (armedState.entry 5).state = .armed ∧
    blockContract { levelBlock with input := 4 } = some { levelOn .command with measure := .level 4 1 1 } ∧
    blockContract { levelBlock with qualify := 4 } = some { levelOn .command with qualify := 4 } ∧
    (pastDueState.entry 5).state = .armed ∧ blockContract (intervalBlock 1) = some (levelOn (.interval 1)) ∧
    pastDueState.lateness 5 = some .pastDue ∧ (intervalWatch 0).dyn.due = some 0 ∧
    (pastDueState.now - (0 + BitVec.ofNat 32 (1 * 10))).toNat < 2 ^ 31 ∧
    ¬ (pastDueState.now - (0 + BitVec.ofNat 32 (2 * 10))).toNat < 2 ^ 31 :=
  ⟨commands_armed, commands_pastDue, by decide⟩

def swappingWatch : Watch :=
  { defn := { commandWatch.defn with bankB := some ⟨900, 1800, 50⟩ }
    dyn := { commandWatch.dyn with swapPending := true } }

def swappingState : State := place State.reset 5 .armed .none swappingWatch

theorem commands_swapping : swappingState.Commands .a ⟨5, 0⟩ 5 swappingWatch :=
  ⟨by decide, ⟨by decide, by decide, by decide, by decide⟩, by decide⟩

def onBankB : Watch := { commandWatch with defn := { commandWatch.defn with active := .b, bankB := some ⟨0, 1, 0⟩ } }

/-- A pending swap; a window above a LEVEL watch's limits; writes to bank B and to bank A. -/
theorem witness_WriteBankWritesTheInactiveBank :
    swappingState.Commands .a ⟨5, 0⟩ 5 swappingWatch ∧ armedState.Commands .a ⟨5, 0⟩ 5 commandWatch ∧
    (place State.reset 5 .armed .none onBankB).Commands .a ⟨5, 0⟩ 5 onBankB ∧ swappingWatch.dyn.swapPending = true ∧
    commandWatch.dyn.swapPending = false ∧ decodeBank ⟨1, 0, 4096, 0⟩ (-2048, 2147483647) = some (some ⟨0, 4096, 0⟩) ∧
    (Threshold.mk 0 4096 0).within commandWatch.defn.contract.measure.kind.limits = false ∧
    decodeBank ⟨1, 0, 4095, 0⟩ (-2048, 2147483647) = some (some ⟨0, 4095, 0⟩) ∧
    (Threshold.mk 0 4095 0).within commandWatch.defn.contract.measure.kind.limits = true ∧
    decodeBank ⟨0, 0, 0, 0⟩ (-2048, 2147483647) = some none ∧ commandWatch.defn.active = .a ∧ onBankB.defn.active = .b :=
  ⟨commands_swapping, commands_armed, ⟨by decide, ⟨by decide, by decide, by decide, by decide⟩, by decide⟩, by decide⟩

theorem witness_SwapBankTogglesOrPends :
    armedState.Commands .a ⟨5, 0⟩ 5 commandWatch ∧ commandWatch.defn.bankB = none ∧ commandWatch.defn.active = .a ∧
    swappingState.Commands .a ⟨5, 0⟩ 5 swappingWatch ∧ swappingWatch.dyn.swapPending = true ∧
    (place State.reset 5 .armed .none onBankB).Commands .a ⟨5, 0⟩ 5 onBankB ∧ onBankB.defn.bankA ≠ none ∧
    onBankB.dyn.swapPending = false ∧ (place State.reset 5 .defined .converting onBankB).Commands .a ⟨5, 0⟩ 5 onBankB :=
  ⟨commands_armed, by decide, by decide, commands_swapping, by decide,
    ⟨by decide, ⟨by decide, by decide, by decide, by decide⟩, by decide⟩, by decide, by decide,
    ⟨by decide, ⟨by decide, by decide, by decide, by decide⟩, by decide⟩⟩

def intervalDefined : State := place State.reset 5 .defined .none (watchOf (levelOn (.interval 10)))

def intervalDefinedHeld : State := { intervalDefined with holdB := true }

theorem witness_ArmSchedulesTheWatch :
    armedState.Commands .a ⟨5, 0⟩ 5 commandWatch ∧ (armedState.entry 5).state ≠ .defined ∧
    lateDefinedState.Commands .a ⟨5, 0⟩ 5 commandWatch ∧ (lateDefinedState.entry 5).activity ≠ .none ∧
    definedState.Commands .a ⟨5, 0⟩ 5 commandWatch ∧ (definedState.entry 5).state = .defined ∧
    (definedState.entry 5).activity = .none ∧ (∀ n, commandWatch.defn.contract.start ≠ .interval n) ∧
    intervalDefined.Commands .a ⟨5, 0⟩ 5 (watchOf (levelOn (.interval 10))) ∧
    (watchOf (levelOn (.interval 10))).defn.contract.start = .interval 10 ∧ intervalDefined.isHeld = false ∧
    intervalDefinedHeld.Commands .a ⟨5, 0⟩ 5 (watchOf (levelOn (.interval 10))) ∧ intervalDefinedHeld.isHeld = true :=
  ⟨commands_armed, by decide, ⟨by decide, ⟨by decide, by decide, by decide, by decide⟩, by decide⟩, by decide,
    commands_defined, by decide, by decide, fun _ h => Start.noConfusion h,
    ⟨by decide, ⟨by decide, by decide, by decide, by decide⟩, by decide⟩, by decide, by decide,
    ⟨by decide, ⟨by decide, by decide, by decide, by decide⟩, by decide⟩, by decide⟩
/-- The engine of watch 5 is RESERVED for it, and the watch is STANDING or ONCE. -/
def reservedState (life : Lifetime) : State :=
  let w := watchOf { timingOf .period .command with lifetime := life }
  (measuringState .period .reserved).setEntry 5 ⟨.armed, 0, .measuring, some w⟩

theorem commands_reserved (life : Lifetime) :
    (reservedState life).Commands .a ⟨5, 0⟩ 5 (watchOf { timingOf .period .command with lifetime := life }) := by
  cases life <;> exact ⟨by decide, ⟨by decide, by decide, by decide, by decide⟩, by decide⟩

theorem witness_DisarmEndsScheduling :
    definedState.Commands .a ⟨5, 0⟩ 5 commandWatch ∧ definedState.reservedFor 5 = none ∧ (definedState.entry 5).state ≠ .armed ∧
    swappingState.Commands .a ⟨5, 0⟩ 5 swappingWatch ∧ swappingState.reservedFor 5 = none ∧
    (swappingState.entry 5).state = .armed ∧
    (∀ life, (reservedState life).Commands .a ⟨5, 0⟩ 5 (watchOf { timingOf .period .command with lifetime := life })) ∧
    ∀ life ∈ [Lifetime.standing, .once], (reservedState life).reservedFor 5 = some 1 ∧
      ((reservedState life).entry 5).state = .armed ∧
      (after (.delivery (.engine 1)) (reservedState life)).reservedFor 5 = none :=
  ⟨commands_defined, by decide, by decide, commands_swapping, by decide, by decide, commands_reserved, by decide⟩

theorem witness_RetireFreesTheEntry :
    armedState.Commands .a ⟨5, 0⟩ 5 commandWatch ∧ armedState.reservedFor 5 = none ∧
    (armedState.entry 5).activity ≠ .converting ∧ (convertingState [5]).Commands .a ⟨5, 0⟩ 5 commandWatch ∧
    (convertingState [5]).reservedFor 5 = none ∧ ((convertingState [5]).entry 5).activity = .converting ∧
    (reservedState .standing).Commands .a ⟨5, 0⟩ 5 (watchOf (timingOf .period .command)) ∧
    (reservedState .standing).reservedFor 5 = some 1 ∧
    (after (.delivery (.engine 1)) (reservedState .standing)).reservedFor 5 = none :=
  ⟨commands_armed, by decide, by decide, ⟨by decide, ⟨by decide, by decide, by decide, by decide⟩, by decide⟩, by decide,
    by decide, commands_reserved .standing, by decide, by decide⟩

theorem witness_SampleStartsTheWatch :
    definedState.Commands .a ⟨5, 0⟩ 5 commandWatch ∧ (definedState.entry 5).state ≠ .armed ∧
    pastDueState.Commands .a ⟨5, 0⟩ 5 (intervalWatch 0) ∧ (pastDueState.entry 5).state = .armed ∧ pastDueState.isHeld = true ∧
    armedState.Commands .a ⟨5, 0⟩ 5 commandWatch ∧ (armedState.entry 5).state = .armed ∧ armedState.isHeld = false :=
  ⟨commands_defined, by decide, commands_pastDue, by decide, by decide, commands_armed, by decide, by decide⟩

/-- The member at the cursor itself; and the wrap to a member below it, none standing at or after it. -/
theorem witness_FetchAttentionRotates :
    let atCursor := attentiveState.setAttention .a { attentiveState.attention .a with cursor := 9 }
    (atCursor.accepts .a = true ∧ (atCursor.attention .a).causes[(9 : EntryIndex)] ≠ 0 ∧
      (atCursor.attention .a).cursor ≤ 9 ∧
      ∀ j : EntryIndex, (atCursor.attention .a).cursor ≤ j → (atCursor.attention .a).causes[j] ≠ 0 → 9 ≤ j) ∧
    attentiveState.accepts .a = true ∧ (attentiveState.attention .a).causes[(5 : EntryIndex)] ≠ 0 ∧
    (∀ j : EntryIndex, (attentiveState.attention .a).cursor ≤ j → (attentiveState.attention .a).causes[j] = 0) ∧
    ∀ j : EntryIndex, (attentiveState.attention .a).causes[j] ≠ 0 → 5 ≤ j := by decide

theorem witness_FetchAttentionOnAnEmptySet :
    State.reset.accepts .b = true ∧ ∀ i : EntryIndex, (State.reset.attention .b).causes[i] = 0 := by decide

theorem witness_AttentionEnableGovernsTheLine : attentiveState.accepts .a = true ∧ (2 : Byte) ≠ 0 ∧ (2 : Byte) ≠ 1 := by decide

theorem witness_CorrectionsAreWrittenAndRead :
    State.reset.accepts .a = true ∧ (15 : Byte).toNat = (15 : AnalogInput).val ∧ (3 : Byte).toNat = (3 : Fin 4).val ∧
    (0xF800 : Half).toInt = -2048 ∧ (0x07FF : Half).toInt = 2047 ∧ State.reset.correction 15 3 = ⟨32768, 0⟩ ∧
    16 ≤ (16 : Byte).toNat ∧ 4 ≤ (4 : Byte).toNat ∧ 2047 < (0x0800 : Half).toInt ∧ (0xF7FF : Half).toInt < -2048 := by decide

/-- The ends of a unipolar and of a bipolar span, entries at their limits, and products of either sign. -/
theorem witness_ConversionArithmeticIsExact :
    (-0 * 500 : Int) ≤ 0 ∧ (2047999 : Int) < (4096 - 0) * 500 ∧ ¬ (2048000 : Int) < (4096 - 0) * 500 ∧
    (-2048 * 2000 : Int) ≤ -4096000 ∧ (-4096001 : Int) < -2048 * 2000 ∧ (65535 : Nat) ≤ 65535 ∧ (4095 : Nat) ≤ 4095 ∧
    (0 : Int) ≤ (4095 + 2047) * 65535 ∧ (-2048 - 2048 : Int) * 65535 < 0 ∧
    correctionQuotient ⟨32768, -10⟩ 0 4 < 0 ∧ 4095 < correctionQuotient ⟨33000, 0⟩ 1 4090 ∧
    correctionQuotient ⟨32768, 0⟩ 3 0 = -2048 := by decide

/-- A DIN2 whose pin has been high for 2 µs behind a 50 µs filter. -/
def filteringState : State := State.reset.setDin 2 ⟨.us50, .low, .high, 2⟩

/-- A busy input; a repeated setting; the setting of 2 µs, which the pin has just held, and of 1 ms, which it has not; the first
input and the first setting out of range. -/
theorem witness_SetFilterChangesAnIdleInput :
    (2 : Byte).toNat = (2 : TimingInput).val ∧ filteringState.accepts .a = true ∧
    (measuringState .period .timing).accepts .a = true ∧ ((measuringState .period .timing).engine 1).state ≠ .free ∧
    ((measuringState .period .timing).engine 1).measurement = some ⟨.period, 2, .rising⟩ ∧
    (∀ e, (filteringState.engine e).state = .free) ∧ (filteringState.din 2).setting = .us50 ∧
    (filteringState.din 2).raw ≠ (filteringState.din 2).level ∧ 2 ≤ (filteringState.din 2).rawHeld ∧
    (filteringState.din 2).rawHeld < 1000 ∧ 8 ≤ (8 : Byte).toNat ∧ 4 ≤ (4 : Byte).toNat := by decide

/-- A pin that goes high: with no filter at once, behind 2 µs held just long enough and not; and one that has just held its level
for the filter time when it reverts. -/
theorem witness_DinTransitionReachesTheEngines :
    State.reset.resetAsserted = false ∧ Level.high ≠ (State.reset.din 2).level ∧
    (State.reset.setDin 2 { State.reset.din 2 with raw := .high, rawHeld := 0 }).NothingSooner 0 ∧
    (State.reset.setDin 2 ⟨.us2, .low, .high, 0⟩).NothingSooner 2 ∧ FilterSetting.us2.micros - 0 ≤ 2 ∧
    1 < FilterSetting.us2.micros - 0 ∧ Level.low = (State.reset.din 2).level ∧
    (let d := (State.reset.setDin 2 ⟨.us2, .low, .high, 2⟩).din 2
     Level.low ≠ d.raw ∧ d.raw ≠ d.level ∧ d.setting.micros ≤ d.rawHeld) := by
  refine ⟨by decide, by decide, ?_, ?_, by decide⟩ <;> unfold State.NothingSooner <;> decide

theorem witness_LimitAndGateExpiriesEndTheMeasurement :
    (let s := quiet (measuringState .period .awaitStart)
     s.resetAsserted = false ∧ (s.engine 1).state = .awaitStart ∧
      s.NothingSooner ((s.engine 1).expiry - (s.engine 1).age)) ∧
    (let s := quiet (measuringState .highTime .timing)
     (s.engine 1).state = .timing ∧ s.NothingSooner ((s.engine 1).expiry - (s.engine 1).age)) ∧
    let s := quiet (measuringState .edgeCount .gating)
    (s.engine 1).state = .gating ∧ s.NothingSooner ((s.engine 1).expiry - (s.engine 1).age) := by
  refine ⟨⟨by decide, by decide, ?_⟩, ⟨by decide, ?_⟩, by decide, ?_⟩ <;> unfold State.NothingSooner <;> decide

theorem witness_TriggerConfigSetsTheLine :
    State.reset.accepts .b = true ∧ (1 : Byte).toNat = (if TrgLine.trg1 = .trg0 then 0 else 1) ∧
    2 ≤ (2 : Byte).toNat ∧ 3 ≤ (3 : Byte).toNat := by decide

theorem witness_TriggerRearmReadiesAOnceLine :
    (lineState .once (some .spent) false).accepts .a = true ∧ (0 : Byte).toNat = (if TrgLine.trg0 = .trg0 then 0 else 1) ∧
    ((lineState .once (some .spent) false).line .trg0).mode = .once ∧ ((lineState .every none false).line .trg0).mode = .every ∧
    (State.reset.line .trg0).mode = .off ∧ 2 ≤ (2 : Byte).toNat := by decide

def pinHigh (s : State) : State := s.setLine .trg0 { s.line .trg0 with raw := .high, rawHeld := 0 }

/-- A rising pin held for just 2 µs, in each mode and sub-state and during a fan-out; held for 1 µs; and one that reverts. -/
theorem witness_TriggerTransitionsAreCountedAndTaken :
    State.reset.resetAsserted = false ∧ Level.high ≠ (State.reset.line .trg0).level ∧ 2 - 0 ≤ 2 ∧ 1 < 2 - 0 ∧
    (pinHigh State.reset).NothingSooner 2 ∧ (State.reset.line .trg0).edge = .rising ∧
    (State.reset.line .trg0).mode = .off ∧ (State.reset.line .trg0).fanOut = none ∧
    ((lineState .every none false).line .trg0).mode = .every ∧ (pinHigh (lineState .every none false)).NothingSooner 2 ∧
    ((lineState .once (some .spent) false).line .trg0).sub = some .spent ∧
    (pinHigh (lineState .once (some .spent) false)).NothingSooner 2 ∧
    ((lineState .once (some .ready) false).line .trg0).sub = some .ready ∧
    (pinHigh (lineState .once (some .ready) false)).NothingSooner 2 ∧
    (let s := State.reset.setLine .trg0 { State.reset.line .trg0 with fanOut := some 63 }
     (s.line .trg0).fanOut ≠ none ∧ (pinHigh s).NothingSooner 2) ∧
    (let s := State.reset.setLine .trg0 { State.reset.line .trg0 with edge := .falling }
     ¬ ((s.line .trg0).edge = .both ∨ ((s.line .trg0).edge = .rising ∧ Level.high = .high) ∨
        ((s.line .trg0).edge = .falling ∧ Level.high = .low)) ∧ (pinHigh s).NothingSooner 2) ∧
    Level.low = (State.reset.line .trg0).level ∧
    (let x := ((pinHigh State.reset).elapse 2).line .trg0
     Level.low ≠ x.raw ∧ x.raw ≠ x.level ∧ 2 ≤ x.rawHeld) := by
  unfold State.NothingSooner
  decide

def boundWatch (m : Measure) (pol : Policy) : Watch :=
  watchOf ⟨m, .trg .trg0, .standing, pol, 3, 0x1F, .closed⟩

/-- Watches bound to TRG0: idle, in flight with its start remembered, in flight with DROP, and a timing watch. -/
def boundState : State :=
  place (place (place (place State.reset 0 .armed .none (boundWatch (.level 3 1 1) .hold))
    1 .armed .queued (boundWatch (.level 3 1 1) .hold)) 2 .armed .queued (boundWatch (.level 3 1 1) .drop))
    63 .armed .none (boundWatch (.timing .period 2 .rising 5) .hold)

theorem witness_FanOutStartsEveryBoundWatch :
    (∀ i ∈ ([0, 1, 2, 63] : List EntryIndex), (boundState.entry i).state = .armed) ∧
    (boundState.entry 0).watch = some (boundWatch (.level 3 1 1) .hold) ∧
    (boundWatch (.level 3 1 1) .hold).defn.contract.start = .trg .trg0 ∧ (boundState.entry 0).activity = .none ∧
    (boundState.entry 1).activity ≠ .none ∧ (boundWatch (.level 3 1 1) .hold).dyn.heldTrigger = false ∧
    (boundState.entry 2).watch = some (boundWatch (.level 3 1 1) .drop) ∧ (boundState.entry 2).activity ≠ .none ∧
    (boundState.entry 63).watch = some (boundWatch (.timing .period 2 .rising 5) .hold) ∧
    (boundState.entry 63).activity = .none ∧ (boundState.entry 3).watch = none ∧ boundState.isHeld = false ∧
    ({ boundState with holdA := true } : State).isHeld = true ∧
    (boundWatch (.level 3 1 1) .drop).defn.contract.notify.getLsbD 2 = true := by decide
/-- A fan-out that goes on, one that reaches entry 63 just so with no edge waiting, and one with an edge waiting, in each mode and
sub-state. -/
theorem witness_WaitingEdgeIsTakenAfterTheFanOut :
    boundState.resetAsserted = false ∧ (boundState.line .trg0).waiting = false ∧ (boundState.line .trg0).fanOut = none ∧
    60 + 3 < 64 ∧ 64 ≤ 60 + 4 ∧
    ∀ x ∈ [(TrgMode.off, none), (.every, none), (.once, some .spent), (.once, some .ready)], ∀ waiting ∈ [true, false],
      let s := lineState x.1 x.2 waiting
      let t := s.setLine .trg0 { s.line .trg0 with fanOut := some 60 }
      (s.line .trg0).waiting = waiting ∧ (s.line .trg0).fanOut = none ∧ t.resetAsserted = false ∧
      (t.line .trg0).waiting = waiting ∧ (t.line .trg0).fanOut = some 60 ∧
      ((t.fanOut .trg0 60 4).line .trg0).mode = x.1 ∧ ((t.fanOut .trg0 60 4).line .trg0).sub = x.2 := by decide

theorem witness_HoldSetsTheClaim :
    State.reset.accepts .a = true ∧ ({ State.reset with holdA := true } : State).hold .a = true := by decide

/-- Held by port A at device time 130: watch 5, due at 0, is LATE; watch 6, due at 120, PAST_DUE; watch 7 is idle with a held
trigger. -/
def lateState : State :=
  let held : Watch := { commandWatch with dyn := { commandWatch.dyn with heldTrigger := true } }
  { place (place (place State.reset 5 .armed .none (intervalWatch 0)) 6 .armed .none (intervalWatch 120))
      7 .armed .none held with
    dueList := [⟨5, .late⟩, ⟨6, .pastDue⟩], holdA := true, now := 130 }

def Watch.onInterval (w : Watch) : Bool :=
  match w.defn.contract.start with
  | .interval _ => true
  | _ => false

theorem onInterval_iff (w : Watch) : Tests.Watch.onInterval w = true ↔ ∃ n, w.defn.contract.start = .interval n := by
  unfold Watch.onInterval
  cases w.defn.contract.start <;> simp

theorem any_onInterval_iff (o : Option Watch) :
    o.any Watch.onInterval = true ↔ ∃ w n, o = some w ∧ w.defn.contract.start = .interval n := by
  cases o with
  | none => simp
  | some w => simp [onInterval_iff]

theorem lateState_dueListOk : lateState.DueListOk where
  once := by decide
  exactly := by
    intro i
    rw [← any_onInterval_iff]
    revert i
    decide
  present := by
    intro i hi
    have h : i = 5 ∨ i = 6 := by simpa [lateState] using hi
    rcases h with rfl | rfl
    · exact ⟨intervalWatch 0, by decide, by decide⟩
    · exact ⟨intervalWatch 120, by decide, by decide⟩

theorem witness_ResumeDoesTheResumeWork :
    lateState.DueListOk ∧ State.reset.accepts .a = true ∧ State.reset.hold .a = false ∧ lateState.accepts .a = true ∧
    lateState.accepts .b = true ∧ lateState.hold .b = false ∧ lateState.hold .a = true ∧
    lateState.hold (otherPort .a) = false ∧ (lateState.entry 5).watch = some (intervalWatch 0) ∧
    (intervalWatch 0).defn.contract.start = .interval 10 ∧ (intervalWatch 0).dyn.due = some 0 ∧
    (lateState.entry 6).watch = some (intervalWatch 120) ∧ (lateState.entry 7).state = .armed ∧
    (lateState.entry 7).activity = .none ∧ (lateState.entry 7).watch.map (·.dyn.heldTrigger) = some true ∧
    (∀ m ∈ lateState.dueList, m.entry ≠ 7) ∧ (lateState.entry 8).watch = none ∧
    lateState.statusNow ⟨5, .pastDue⟩ 0 10 = .late ∧ lateState.statusNow ⟨6, .onTime⟩ 120 10 = .pastDue ∧
    lateState.statusNow ⟨6, .onTime⟩ 131 10 = .onTime ∧ (encodeFrame (.fetchAttention (otherPort .a) 9)).isSome = true ∧
    (encodeFrame (.attentionEnable (otherPort .a) 9 1)).isSome = true ∧ isQuiet (.delivery (.engine 0)) = true ∧
    isQuiet (.requestStart .c0) = true :=
  ⟨lateState_dueListOk, by decide⟩

/-- Due in 7 units; due at once. -/
theorem witness_IntervalExpiryReschedulesAndStarts :
    (let s := dueState 7 .onTime
     s.resetAsserted = false ∧ s.isHeld = false ∧ s.dueList = ⟨5, .onTime⟩ :: [] ∧ (s.entry 5).state = .armed ∧
      (s.entry 5).watch = some (intervalWatch 7) ∧ (intervalWatch 7).defn.contract.start = .interval 10 ∧
      (intervalWatch 7).dyn.due = some 7 ∧ s.waitFor 7 = 70 ∧ s.NothingSooner 70) ∧
    let s := dueState 0 .onTime
    (s.entry 5).watch = some (intervalWatch 0) ∧ s.waitFor 0 = 0 ∧ s.NothingSooner 0 := by
  unfold State.NothingSooner
  decide

theorem witness_HeldMembersFallBehind :
    ∀ l ∈ [Lateness.onTime, .pastDue],
      let s : State := { dueState 7 l with holdA := true }
      s.resetAsserted = false ∧ s.isHeld = true ∧ s.dueList.find? (fun x => decide (x.entry = 5)) = some ⟨5, l⟩ ∧
      (s.entry 5).watch = some (intervalWatch 7) ∧ (intervalWatch 7).dyn.due = some 7 ∧
      (intervalWatch 7).defn.contract.start = .interval 10 ∧
      s.NothingSooner (s.waitFor (if l = .onTime then 7 else 7 + BitVec.ofNat 32 (10 * 10))) := by
  unfold State.NothingSooner
  decide

def eight : List Request := (List.range 8).map fun k => ⟨.ain (Fin.ofNat 16 k), 1, 1, [5]⟩

/-- A check in progress; C1's queue full; and both queues with room for one more. -/
theorem witness_ReferenceCheckEntersBothQueues :
    checkState.accepts .b = true ∧ checkState.check.issuer ≠ none ∧ State.reset.check.issuer = none ∧
    (let s : State := { State.reset with conv1 := { State.reset.conv1 with queue := eight } }
     s.accepts .a = true ∧ s.check.issuer = none ∧ 8 ≤ s.conv1.queue.length) ∧
    let s : State := { State.reset with conv1 := { State.reset.conv1 with queue := eight.take 7 } }
    s.accepts .a = true ∧ s.check.issuer = none ∧ s.conv0.queue.length < 8 ∧ s.conv1.queue.length < 8 := by decide

theorem witness_ConvertersTakeAndSettleRequests :
    (State.reset.converter .c0).state = .warmup ∧
    State.reset.NothingSooner (2000 - (State.reset.now.toNat * 10 + State.reset.micro.val)) ∧
    ((quiet State.reset).converter .c0).state = .idle ∧ (quiet State.reset).resetAsserted = false ∧
    (bothState.converter .c1).state = .settling ∧ bothState.resetAsserted = false ∧
    ({ bothState with conv0 := ⟨.idle, [], none, false, 0, none⟩ } : State).NothingSooner (bothState.converter .c1).timer := by
  unfold State.NothingSooner
  decide

/-- A fault flag set; a clamp code; a saturated quotient; and none of these. -/
theorem witness_ConversionCompletionFormsOneOutcome :
    let s := convertingState [5]
    s.resetAsserted = false ∧ (s.converter .c0).state = .converting ∧ (s.converter .c0).delivering = none ∧
    (s.converter .c0).current = some (aRequest [5]) ∧ (aRequest [5]).source = .ain 3 ∧ (aRequest [5]).subscribers ≠ [] ∧
    s.NothingSooner (s.converter .c0).timer ∧ (s.converter .c0).fault = false ∧ rawCode 1 4095000 = 4095 ∧
    rawCode 1 4094999 ≠ 4095 ∧ saturated ⟨33000, 0⟩ 1 4090 = true ∧
    saturated (s.correction 3 1) 1 (rawCode 1 4094999) = false ∧
    (s.setConverter .c0 { s.converter .c0 with fault := true }).NothingSooner 6 := by
  unfold State.NothingSooner
  decide

/-- The second completion of a check, and a first one. -/
theorem witness_CheckCompletionRecordsAndAnswers :
    checkState.resetAsserted = false ∧ (checkState.converter .c0).state = .converting ∧
    (checkState.converter .c0).delivering = none ∧ (checkState.converter .c0).current = some Request.check ∧
    Request.check.source = .checkSource ∧ checkState.NothingSooner (checkState.converter .c0).timer ∧
    checkState.check.issuer = some .a ∧ checkState.check.result1 = some ⟨2940, false⟩ ∧
    (checkState.port .a).window = .executing 0x21 false ∧
    ({ checkState with check := ⟨some .a, none, none⟩ } : State).NothingSooner 6 ∧
    ({ checkState with portB := ⟨.executing 0x21 false, .ignoring, [], true, .low, 7⟩ } : State).NothingSooner 6 := by
  unfold State.NothingSooner
  decide

/-- A converter's delivery to the last subscriber and to one of two, in each state; and an engine's. -/
theorem witness_DeliveriesReachTheirEntries :
    (∀ st ∈ [EntryState.retiring, .defined, .armed], ∀ subs ∈ ([[5], [5, 6]] : List (List EntryIndex)),
      let s := deliveringState st subs
      s.resetAsserted = false ∧ (s.converter .c0).current = some (aRequest subs) ∧
      (s.converter .c0).delivering = some ⟨.normal, some 1500⟩ ∧ 5 ∈ (aRequest subs).subscribers ∧
      (s.entry 5).watch = some commandWatch ∧ (s.entry 5).state ≠ .free) ∧
    let s := measuringState .period .reserved
    s.resetAsserted = false ∧ (s.engine 1).state = .reserved ∧ (s.engine 1).holder = some 5 ∧
      (s.engine 1).outcome = some ⟨.normal, some 321⟩ ∧ (s.entry 5).watch = some (watchOf (timingOf .period .command)) ∧
      (s.entry 5).state ≠ .free := by decide

/-- An absent active bank; the classes at the edges of the window of 8.10, UNKNOWN, ABOVE and BELOW. -/
theorem witness_ArmedDeliveryRecordsSwapsAndJudges :
    ({ commandWatch with defn := { commandWatch.defn with bankA := none } } : Watch).defn.bankA = none ∧
    Targets .unknown ⟨1000, 2000, 100⟩ 2000 .inside ∧ Targets .unknown ⟨1000, 2000, 100⟩ 2001 .above ∧
    Targets .inside ⟨1000, 2000, 100⟩ 999 .below ∧ Targets .above ⟨1000, 2000, 100⟩ 1900 .inside ∧
    Targets .above ⟨1000, 2000, 100⟩ 1901 .above ∧ Targets .above ⟨1000, 2000, 100⟩ 999 .below ∧
    Targets .below ⟨1000, 2000, 100⟩ 1100 .inside ∧ Targets .below ⟨1000, 2000, 100⟩ 1099 .below ∧
    Targets .below ⟨1000, 2000, 100⟩ 2001 .above ∧ SignalClass.inside.condition = .inside ∧
    SignalClass.inside.condition ≠ commandWatch.dyn.condition := by
  refine ⟨by decide, ?_, ?_, ?_, ?_, ?_, ?_, ?_, ?_, ?_, by decide, by decide⟩ <;> simp [Targets]

/-- Two and three outcomes inside the window for a qualify of 3, and what ends the count. -/
theorem witness_ConditionChangesAfterQualifyOutcomes :
    (if commandWatch.defn.active = .a then commandWatch.defn.bankA else commandWatch.defn.bankB) = some ⟨1000, 2000, 100⟩ ∧
    commandWatch.dyn.candidate = none ∧ SignalClass.inside.condition ≠ commandWatch.dyn.condition ∧
    (∀ o ∈ List.replicate 3 (Delivered.mk .normal (some 1500)),
      ∃ v, o.value = some v ∧ Targets commandWatch.dyn.condition ⟨1000, 2000, 100⟩ v .inside) ∧
    (List.replicate 2 (Delivered.mk .normal (some 1500))).length < commandWatch.defn.contract.qualify ∧
    (List.replicate 3 (Delivered.mk .normal (some 1500))).length = commandWatch.defn.contract.qualify ∧
    (Delivered.mk .fault none).value = none ∧ Targets commandWatch.dyn.condition ⟨1000, 2000, 100⟩ 2001 .above := by
  refine ⟨by decide, by decide, by decide, fun o ho => ?_, by decide, by decide, by decide, ?_⟩
  · rw [List.eq_of_mem_replicate ho]
    exact ⟨1500, rfl, .inr (.inr ⟨by decide, by decide, rfl⟩)⟩
  · exact .inl ⟨by decide, rfl⟩

/-! ### A state with work in every place, which meets every invariant -/

def timingWatch : Watch := watchOf (timingOf .period .command)

def engineFor (i : EntryIndex) (st : EngineState) : Engine :=
  ⟨st, some i, some ⟨.period, 2, .rising⟩, 5000, 10, 0, 0, if st = .reserved then some ⟨.normal, some 321⟩ else none⟩

/-- Watch 5 QUEUED on its interval, 6 CONVERTING, 7 to 10 MEASURING, 11 AWAITING_ENGINE. -/
def workingState : State :=
  { place (place (place (place (place (place (place State.reset
      5 .armed .queued (intervalWatch 50)) 6 .armed .converting commandWatch) 7 .armed .measuring timingWatch)
      8 .armed .measuring timingWatch) 9 .armed .measuring timingWatch) 10 .armed .measuring timingWatch)
      11 .armed .awaitingEngine timingWatch with
    conv0 := ⟨.converting, [aRequest [5], Request.check], some (aRequest [6]), false, 6, none⟩
    engines := #v[engineFor 7 .awaitStart, engineFor 8 .timing, engineFor 9 .awaitStart, engineFor 10 .reserved]
    waitList := [11]
    dueList := [⟨5, .onTime⟩]
    trg0 := ⟨.once, .both, some .spent, .low, 3, true, .low, 5, some 60⟩
    attentionA := ⟨(Vector.replicate 64 0).set 5 0b00101, 6, true⟩ }

theorem workingState_steps : ∃ t, step workingState = .next t := ⟨_, rfl⟩

theorem witness_QueueInvariantsAreKept :
    workingState.QueuesOk ∧ workingState.WaitListOk ∧ workingState.LinesOk ∧ (workingState.line .trg0).waiting = true ∧
    ∃ t, step workingState = .next t := by
  refine ⟨⟨⟨by decide, ?_, by decide⟩, ⟨by decide, List.Pairwise.nil, by decide⟩⟩, ?_, fun l => ?_, by decide,
    workingState_steps⟩
  · simp [workingState, Request.clashes, aRequest, Request.check]
  · unfold State.WaitListOk
    decide
  · cases l <;> simp [workingState, State.line, place, State.setEntry, State.reset, State.powerOn, TrgContext.afterReset]

theorem watchOk_of_kind {c : Contract} (hk : c.measure.kind = .level ∨ c.measure.kind = .period) (hq : c.qualify = 3)
    (hs : ∀ n, c.start ≠ .interval n) : WatchOk .armed (watchOf c) where
  bankA := by
    show (Threshold.mk 1000 2000 100).ordered = true ∧ (Threshold.mk 1000 2000 100).within c.measure.kind.limits = true
    rcases hk with h | h <;> rw [h] <;> decide
  bankB := trivial
  qualify := by simp [watchOf, hq]
  candidate := by simp [watchOf, Dynamic.atCreation]
  overruns := by simp [watchOf, Dynamic.atCreation]
  swap := by simp [watchOf, Dynamic.atCreation]
  held := by simp [watchOf, Dynamic.atCreation]
  unjudged := by simp [watchOf, Dynamic.atCreation, Definition.activeBank, Definition.bank]
  due := by
    constructor
    · intro h
      cases h
    · rintro ⟨-, n, h⟩
      exact absurd h (hs n)

theorem watchOk_intervalWatch (d : DeviceTime) : WatchOk .armed (intervalWatch d) where
  bankA := by
    show (Threshold.mk 1000 2000 100).ordered = true ∧ (Threshold.mk 1000 2000 100).within Kind.level.limits = true
    decide
  bankB := trivial
  qualify := by simp [intervalWatch, watchOf, levelOn]
  candidate := by simp [intervalWatch, Dynamic.atCreation]
  overruns := by simp [intervalWatch, Dynamic.atCreation]
  swap := by simp [intervalWatch, Dynamic.atCreation]
  held := by simp [intervalWatch, Dynamic.atCreation]
  unjudged := by simp [intervalWatch, watchOf, Definition.activeBank, Definition.bank]
  due := ⟨fun _ => ⟨rfl, 10, rfl⟩, fun _ => rfl⟩

/-- Which watch each entry of that state carries. -/
def workingWatch (i : EntryIndex) : Option Watch :=
  if i = 5 then some (intervalWatch 50)
  else if i = 6 then some commandWatch
  else if 7 ≤ i.val ∧ i.val ≤ 11 then some timingWatch
  else none

theorem workingState_watch : ∀ i, (workingState.entry i).watch = workingWatch i := by decide

theorem workingState_armed : ∀ i, (workingWatch i).isSome = true → (workingState.entry i).state = .armed := by decide

theorem workingWatch_cases {i : EntryIndex} {w : Watch} (h : (workingState.entry i).watch = some w) :
    (workingState.entry i).state = .armed ∧ (w = intervalWatch 50 ∨ w = commandWatch ∨ w = timingWatch) := by
  rw [workingState_watch] at h
  refine ⟨workingState_armed i (by rw [h]; rfl), ?_⟩
  unfold workingWatch at h
  split at h
  · exact .inl (Option.some.inj h).symm
  · split at h
    · exact .inr (.inl (Option.some.inj h).symm)
    · split at h
      · exact .inr (.inr (Option.some.inj h).symm)
      · cases h

theorem witness_TableInvariantIsKept : workingState.TableOk ∧ ∃ t, step workingState = .next t := by
  refine ⟨⟨by decide, fun i w h => ?_⟩, workingState_steps⟩
  obtain ⟨hs, rfl | rfl | rfl⟩ := workingWatch_cases h <;> rw [hs]
  · exact watchOk_intervalWatch 50
  · exact watchOk_of_kind (.inl rfl) rfl fun _ h => Start.noConfusion h
  · exact watchOk_of_kind (.inr rfl) rfl fun _ h => Start.noConfusion h

theorem witness_AttentionInvariantIsKept : workingState.AttentionOk ∧ ∃ t, step workingState = .next t := by
  refine ⟨fun p => ?_, workingState_steps⟩
  cases p <;> decide

theorem witness_DueListInvariantIsKept :
    workingState.DueListOk ∧ workingState.LatenessOk ∧ ∃ t, step workingState = .next t := by
  refine ⟨⟨by decide, fun i => ?_, fun i hi => ?_⟩, ?_, workingState_steps⟩
  · rw [← any_onInterval_iff]
    revert i
    decide
  · have h : i = 5 := by simpa [workingState] using hi
    subst h
    exact ⟨intervalWatch 50, by decide, by decide⟩
  · unfold State.LatenessOk
    decide

theorem witness_PlacesInvariantIsKept : workingState.PlacesOk ∧ ∃ t, step workingState = .next t := by
  refine ⟨⟨by decide, by decide, by decide, by decide, by decide, by decide, fun i hi => ?_, fun i hi => ?_,
    fun i w n r d hw hm => ⟨fun ha => ?_, fun ha => ?_⟩, fun c => ?_, fun c => ?_, by decide, by decide⟩, workingState_steps⟩
  · have h : ∀ i, (workingState.entry i).activity = .awaitingEngine ∨ (workingState.entry i).activity = .measuring →
        workingWatch i = some timingWatch := by decide
    exact ⟨timingWatch, .period, 2, .rising, 5, (workingState_watch i).trans (h i hi), rfl⟩
  · have h : ∀ i, (workingState.entry i).activity = .queued ∨ (workingState.entry i).activity = .converting →
        workingWatch i = some (intervalWatch 50) ∨ workingWatch i = some commandWatch := by decide
    rcases h i hi with h | h
    · exact ⟨intervalWatch 50, 3, 1, 1, (workingState_watch i).trans h, rfl⟩
    · exact ⟨commandWatch, 3, 1, 1, (workingState_watch i).trans h, rfl⟩
  · have hi : ∀ i, (workingState.entry i).activity = .queued → i = 5 := by decide
    cases hi i ha
    cases (show intervalWatch 50 = w from Option.some.inj hw)
    cases hm
    exact ⟨aRequest [5], List.mem_cons_self, by decide⟩
  · have hi : ∀ i, (workingState.entry i).activity = .converting → i = 6 := by decide
    cases hi i ha
    cases (show commandWatch = w from Option.some.inj hw)
    cases hm
    exact ⟨aRequest [6], rfl, by decide⟩
  · cases c <;> decide
  · cases c <;> decide

/-- A watch at rest, a CONVERTING one, and one whose engine is RESERVED; a port with the last claim. -/
theorem witness_PortResetRetiresThePortsWatches :
    workingState.PlacesOk ∧ lateState.DueListOk ∧ armedState.accepts .a = true ∧ armedState.owns .a 5 = true ∧
    armedState.reservedFor 5 = none ∧ (armedState.entry 5).activity ≠ .converting ∧ armedState.owns .b 5 = false ∧
    armedState.hold .a = false ∧ (convertingState [5]).accepts .a = true ∧ (convertingState [5]).owns .a 5 = true ∧
    (convertingState [5]).reservedFor 5 = none ∧ ((convertingState [5]).entry 5).activity = .converting ∧
    5 ∉ (convertingState [5]).waitList ∧ workingState.accepts .a = true ∧ workingState.owns .a 10 = true ∧
    workingState.reservedFor 10 ≠ none ∧ (workingState.engine 0).state ≠ .free ∧
    (∀ i, (workingState.engine 0).holder = some i → workingState.owns .b i = false) ∧ lateState.accepts .a = true ∧
    lateState.hold .a = true ∧ lateState.hold (otherPort .a) = false :=
  ⟨witness_PlacesInvariantIsKept.1, lateState_dueListOk, by decide⟩

end Sys2Proof.Tests
end

/-! ### The bytes of LIST WATCHES (R180) -/

namespace Sys2Proof.Machine

theorem getLsbD_flagByte (b : Bool) (j : Nat) : (flagByte b).getLsbD j = (decide (j = 0) && b) := by
  cases b with
  | false => simp [flagByte]
  | true => simp [flagByte]

/-- Bit `j` of a packed byte is flag `j`; flags past the list's end read as false. -/
theorem getLsbD_packByte (bs : List Bool) {j : Nat} (hj : j < 8) : (packByte bs).getLsbD j = bs.getD j false := by
  induction bs generalizing j with
  | nil => simp [packByte]
  | cons b bs ih =>
    rw [packByte, BitVec.getLsbD_or, BitVec.getLsbD_shiftLeft, getLsbD_flagByte]
    cases j with
    | zero => simp
    | succ j => simpa [hj] using ih (Nat.lt_of_succ_lt hj)

@[simp] theorem length_setBytes (member : EntryIndex → Bool) : (setBytes member).length = 8 := by simp [setBytes]

/-- R180: a set holds entry `i` at bit `i mod 8` of byte `i div 8`. -/
theorem getLsbD_byteAt_setBytes (member : EntryIndex → Bool) (i : EntryIndex) :
    (byteAt (setBytes member) (i.val / 8)).getLsbD (i.val % 8) = member i := by
  have hbyte : i.val / 8 < 8 := by omega
  have hbit : i.val % 8 < 8 := Nat.mod_lt _ (by decide)
  have hentry : Fin.ofNat 64 (8 * (i.val / 8) + i.val % 8) = i := by rw [Nat.div_add_mod, Fin.ofNat_val_eq_self]
  have hpacked : byteAt (setBytes member) (i.val / 8) =
      packByte ((List.range 8).map fun j => member (Fin.ofNat 64 (8 * (i.val / 8) + j))) := by
    simp [byteAt, setBytes, hbyte]
  calc
    _ = member (Fin.ofNat 64 (8 * (i.val / 8) + i.val % 8)) := by
      rw [hpacked, getLsbD_packByte _ hbit]
      simp [hbit]
    _ = member i := by rw [hentry]

/-! A byte of two joined byte lists. -/

theorem byteAt_append_left {as bs : List Byte} {k : Nat} (h : k < as.length) : byteAt (as ++ bs) k = byteAt as k :=
  List.getD_append _ _ _ _ h

theorem byteAt_append_add {as bs : List Byte} {n : Nat} (h : as.length = n) (k : Nat) :
    byteAt (as ++ bs) (n + k) = byteAt bs k := by
  subst h
  simpa [byteAt] using List.getD_append_right as bs 0 (as.length + k) (Nat.le_add_right _ _)

/-! ### LIST WATCHES (R45) -/

/-- The entries of which `q` owns the watch are DEFINED or ARMED, so FREE and RETIRING ones are in no set (R45). -/
theorem State.owns_iff (s : State) (q : Port) (i : EntryIndex) :
    s.owns q i = true ↔ ∃ w, (s.entry i).watch = some w ∧ w.defn.owner = q ∧
      ((s.entry i).state = .defined ∨ (s.entry i).state = .armed) := by
  unfold State.owns
  cases (s.entry i).watch with
  | none => simp
  | some w => simp [Entry.addressable, and_comm]

@[simp] theorem length_listWatchesData (s : State) (p : Port) : (listWatchesData s p).length = 24 := by
  simp [listWatchesData]

/-- The three sets at their places in the data: owned, owned and ARMED, the other port's. -/
theorem listWatchesData_bits (s : State) (p : Port) (i : EntryIndex) :
    (byteAt (listWatchesData s p) (i.val / 8)).getLsbD (i.val % 8) = s.owns p i ∧
    (byteAt (listWatchesData s p) (8 + i.val / 8)).getLsbD (i.val % 8) =
      (s.owns p i && decide ((s.entry i).state = .armed)) ∧
    (byteAt (listWatchesData s p) (16 + i.val / 8)).getLsbD (i.val % 8) = s.owns (otherPort p) i := by
  have hbyte : i.val / 8 < 8 := by omega
  refine ⟨?owned, ?armed, ?others⟩
  case owned =>
    rw [listWatchesData, byteAt_append_left (by simp; omega), byteAt_append_left (by simpa using hbyte),
      getLsbD_byteAt_setBytes]
  case armed =>
    rw [listWatchesData, byteAt_append_left (by simp; omega), byteAt_append_add (by simp), getLsbD_byteAt_setBytes]
  case others =>
    rw [listWatchesData, byteAt_append_add (by simp), getLsbD_byteAt_setBytes]

theorem listWatchesData_setPort (s : State) (p q : Port) (v : PortState) :
    listWatchesData (s.setPort q v) p = listWatchesData s p := by simp [listWatchesData]

theorem exec_listWatches (p : Port) (tag : Byte) (s : State) :
    exec (.listWatches p tag) s = .next (s.command p tag 0 true fun s => (s, .ok (listWatchesData s p))) := rfl

theorem answers_listWatches {s : State} {p : Port} (tag : Byte) (ha : s.accepts p = true) :
    Answers (.listWatches p tag) s p tag .ok (listWatchesData s p) s :=
  answers_ok (exec_listWatches p tag s) ha fun v => by rw [listWatchesData_setPort]

/-- Settles O4: the block answers `listWatchesData`, whose bits are the three sets. -/
theorem listWatchesReportsThreeSets : Obligations.ListWatchesReportsThreeSets := by
  intro s p tag ha
  refine ⟨listWatchesData s p, answers_listWatches tag ha, length_listWatchesData s p, fun i => ?_⟩
  obtain ⟨howned, harmed, hothers⟩ := listWatchesData_bits s p i
  refine ⟨?owned, ?armed, ?others⟩
  case owned => rw [howned, State.owns_iff]
  case armed => rw [harmed, Bool.and_eq_true, State.owns_iff, decide_eq_true_eq]
  case others => rw [hothers, State.owns_iff]

end Sys2Proof.Machine

/-! ### The encodings of the trigger fields (R178) -/

namespace Sys2Proof.Machine

theorem decodeTrgLine_of_toNat {b : Byte} {l : TrgLine} (h : b.toNat = if l = .trg0 then 0 else 1) :
    decodeTrgLine b = some l := by
  cases l with
  | trg0 => rw [show b = 0 from BitVec.eq_of_toNat_eq h]; rfl
  | trg1 => rw [show b = 1 from BitVec.eq_of_toNat_eq h]; rfl

/-! A byte past the last encoding of a field decodes to nothing: each listed encoding is below the bound. -/

theorem decodeTrgLine_eq_none {b : Byte} (h : 2 ≤ b.toNat) : decodeTrgLine b = none := by
  unfold decodeTrgLine
  split
  case h_3 => rfl
  all_goals exact absurd h (by decide)

theorem decodeTrgMode_eq_none {b : Byte} (h : 3 ≤ b.toNat) : decodeTrgMode b = none := by
  unfold decodeTrgMode
  split
  case h_4 => rfl
  all_goals exact absurd h (by decide)

theorem decodeTrgEdge_eq_none {b : Byte} (h : 3 ≤ b.toNat) : decodeTrgEdge b = none := by
  unfold decodeTrgEdge
  split
  case h_4 => rfl
  all_goals exact absurd h (by decide)

/-! ### TRIGGER CONFIG (R75) -/

theorem exec_triggerConfig (p : Port) (tag line mode edge : Byte) (s : State) :
    exec (.triggerConfig p tag line mode edge) s = .next (s.command p tag 3
      ((decodeTrgLine line).isSome && (decodeTrgMode mode).isSome && (decodeTrgEdge edge).isSome)
      (triggerConfigBody line mode edge)) := rfl

theorem triggerConfigBody_of_decoded {line mode edge : Byte} {l : TrgLine} {m : TrgMode} {g : TrgEdge}
    (hl : decodeTrgLine line = some l) (hm : decodeTrgMode mode = some m) (hg : decodeTrgEdge edge = some g) (s : State) :
    triggerConfigBody line mode edge s =
      (s.setLine l { s.line l with mode := m, edge := g, sub := if m = .once then some .ready else none }, .ok []) := by
  rw [triggerConfigBody, hl, hm, hg]

theorem answers_triggerConfig {s : State} {p : Port} {line mode edge : Byte} {l : TrgLine} {m : TrgMode} {g : TrgEdge}
    (tag : Byte) (ha : s.accepts p = true) (hl : decodeTrgLine line = some l) (hm : decodeTrgMode mode = some m)
    (hg : decodeTrgEdge edge = some g) :
    Answers (.triggerConfig p tag line mode edge) s p tag .ok []
      (s.setLine l { s.line l with mode := m, edge := g, sub := if m = .once then some .ready else none }) := by
  have hx := exec_triggerConfig p tag line mode edge s
  rw [hl, hm, hg] at hx
  refine answers_ok hx ha fun v => ?_
  rw [triggerConfigBody_of_decoded hl hm hg, State.setPort_line, State.setLine_setPort]

theorem answers_triggerConfig_badParameter {s : State} {p : Port} {line mode edge : Byte} (tag : Byte)
    (ha : s.accepts p = true)
    (hn : decodeTrgLine line = none ∨ decodeTrgMode mode = none ∨ decodeTrgEdge edge = none) :
    Answers (.triggerConfig p tag line mode edge) s p tag .badParameter [] s := by
  have hinvalid :
      ((decodeTrgLine line).isSome && (decodeTrgMode mode).isSome && (decodeTrgEdge edge).isSome) = false := by
    rcases hn with h | h | h <;> simp [h]
  have hx := exec_triggerConfig p tag line mode edge s
  rw [hinvalid] at hx
  exact answers_badParameter hx ha

/-- Settles O39: bytes within the encodings decode to the named line, mode and edge, one byte past them to nothing. -/
theorem triggerConfigSetsTheLine : Obligations.TriggerConfigSetsTheLine := by
  intro s p tag line mode edge ha
  refine ⟨fun l m g hl hmode hedge => ?config, fun hout => ?refusal⟩
  case config =>
    have hm : decodeTrgMode mode = some m := by subst hmode; cases m <;> rfl
    have hg : decodeTrgEdge edge = some g := by subst hedge; cases g <;> rfl
    exact answers_triggerConfig tag ha (decodeTrgLine_of_toNat hl) hm hg
  case refusal =>
    exact answers_triggerConfig_badParameter tag ha
      (hout.imp decodeTrgLine_eq_none (Or.imp decodeTrgMode_eq_none decodeTrgEdge_eq_none))

/-! ### TRIGGER REARM (R76) -/

theorem exec_triggerRearm (p : Port) (tag line : Byte) (s : State) :
    exec (.triggerRearm p tag line) s =
      .next (s.command p tag 1 (decodeTrgLine line).isSome (triggerRearmBody line)) := rfl

theorem triggerRearmBody_of_once {line : Byte} {l : TrgLine} {s : State} (hl : decodeTrgLine line = some l)
    (hmode : (s.line l).mode = .once) :
    triggerRearmBody line s = (s.setLine l { s.line l with sub := some .ready }, .ok []) := by
  simp only [triggerRearmBody, hl, hmode, if_true]

theorem triggerRearmBody_of_ne_once {line : Byte} {l : TrgLine} {s : State} (hl : decodeTrgLine line = some l)
    (hmode : (s.line l).mode ≠ .once) : triggerRearmBody line s = (s, .refuse .badState) := by
  simp only [triggerRearmBody, hl, hmode, if_false]

section
variable {s : State} {p : Port} {line : Byte} {l : TrgLine} (tag : Byte) (ha : s.accepts p = true)
include ha

theorem answers_triggerRearm (hl : decodeTrgLine line = some l) (hmode : (s.line l).mode = .once) :
    Answers (.triggerRearm p tag line) s p tag .ok [] (s.setLine l { s.line l with sub := some .ready }) := by
  have hx := exec_triggerRearm p tag line s
  rw [hl] at hx
  refine answers_ok hx ha fun v => ?_
  rw [triggerRearmBody_of_once hl (by rwa [State.setPort_line]), State.setPort_line, State.setLine_setPort]

theorem answers_triggerRearm_badState (hl : decodeTrgLine line = some l) (hmode : (s.line l).mode ≠ .once) :
    Answers (.triggerRearm p tag line) s p tag .badState [] s := by
  have hx := exec_triggerRearm p tag line s
  rw [hl] at hx
  exact answers_refusal hx ha fun v => triggerRearmBody_of_ne_once hl (by rwa [State.setPort_line])

theorem answers_triggerRearm_badParameter (hn : decodeTrgLine line = none) :
    Answers (.triggerRearm p tag line) s p tag .badParameter [] s := by
  have hx := exec_triggerRearm p tag line s
  rw [hn] at hx
  exact answers_badParameter hx ha

end

/-- Settles O40: of the named line's three modes only ONCE passes the block's test. -/
theorem triggerRearmReadiesAOnceLine : Obligations.TriggerRearmReadiesAOnceLine := by
  intro s p tag line ha
  refine ⟨fun l hl => ⟨?once, ?otherModes⟩, fun hout => ?refusal⟩
  case once => exact answers_triggerRearm tag ha (decodeTrgLine_of_toNat hl)
  case otherModes =>
    intro hmode
    have hne : (s.line l).mode ≠ .once := by rcases hmode with h | h <;> simp [h]
    exact answers_triggerRearm_badState tag ha (decodeTrgLine_of_toNat hl) hne
  case refusal => exact answers_triggerRearm_badParameter tag ha (decodeTrgLine_eq_none hout)

end Sys2Proof.Machine

/-! ### The encodings of a correction entry (R110, R181) -/

namespace Sys2Proof.Machine

theorem decodeAnalogInput_of_toNat {b : Byte} {n : AnalogInput} (h : b.toNat = n.val) : decodeAnalogInput b = some n := by
  have hlt : b.toNat < 16 := h ▸ n.isLt
  rw [decodeAnalogInput, dif_pos hlt]
  exact congrArg some (Fin.ext h)

theorem decodeAnalogInput_eq_none {b : Byte} (h : 16 ≤ b.toNat) : decodeAnalogInput b = none :=
  dif_neg (Nat.not_lt.2 h)

theorem decodeRange_of_toNat {b : Byte} {r : Fin 4} (h : b.toNat = r.val) : decodeRange b = some r := by
  have hlt : b.toNat < 4 := h ▸ r.isLt
  rw [decodeRange, dif_pos hlt]
  exact congrArg some (Fin.ext h)

theorem decodeRange_eq_none {b : Byte} (h : 4 ≤ b.toNat) : decodeRange b = none :=
  dif_neg (Nat.not_lt.2 h)

theorem decodeCorrectionKey_of_toNat {input range : Byte} {n : AnalogInput} {r : Fin 4} (hn : input.toNat = n.val)
    (hr : range.toNat = r.val) : decodeCorrectionKey input range = some (n, r) := by
  rw [decodeCorrectionKey, decodeAnalogInput_of_toNat hn, decodeRange_of_toNat hr]

theorem decodeCorrectionKey_eq_none {input range : Byte} (h : 16 ≤ input.toNat ∨ 4 ≤ range.toNat) :
    decodeCorrectionKey input range = none := by
  rcases h with hinput | hrange
  · rw [decodeCorrectionKey, decodeAnalogInput_eq_none hinput]
  · rw [decodeCorrectionKey, decodeRange_eq_none hrange]
    cases decodeAnalogInput input <;> rfl

theorem decodeOffset_of_within {offset : Half} (hlow : -2048 ≤ offset.toInt) (hhigh : offset.toInt ≤ 2047) :
    decodeOffset offset = some offset.toInt :=
  if_pos ⟨hlow, hhigh⟩

theorem decodeOffset_eq_none {offset : Half} (h : offset.toInt < -2048 ∨ 2047 < offset.toInt) :
    decodeOffset offset = none :=
  if_neg fun ⟨hlow, hhigh⟩ => by omega

theorem byteOf_of_toNat {b : Byte} {n : Nat} (h : b.toNat = n) : byteOf n = b := by
  rw [← h, byteOf, BitVec.ofNat_toNat, BitVec.setWidth_eq]

/-- An entry's data begins with the two bytes that named it. -/
theorem correctionData_of_toNat {input range : Byte} {n : AnalogInput} {r : Fin 4} (hn : input.toNat = n.val)
    (hr : range.toNat = r.val) (k : Correction) :
    correctionData n r k =
      [input, range] ++ halfBytes (BitVec.ofNat 16 k.gain) ++ halfBytes (BitVec.ofInt 16 k.offset) := by
  rw [correctionData, byteOf_of_toNat hn, byteOf_of_toNat hr]

/-- The data of an entry just written is the command's own operands. -/
theorem correctionData_of_operands {input range : Byte} {n : AnalogInput} {r : Fin 4} (hn : input.toNat = n.val)
    (hr : range.toNat = r.val) (gain offset : Half) :
    correctionData n r ⟨gain.toNat, offset.toInt⟩ = [input, range] ++ halfBytes gain ++ halfBytes offset := by
  rw [correctionData_of_toNat hn hr, BitVec.ofNat_toNat, BitVec.setWidth_eq, BitVec.ofInt_toInt]

/-! ### SET CORRECTION and READ CORRECTION (R110, R111) -/

theorem exec_setCorrection (p : Port) (tag input range : Byte) (gain offset : Half) (s : State) :
    exec (.setCorrection p tag input range gain offset) s = .next (s.command p tag 6
      ((decodeCorrectionKey input range).isSome && (decodeOffset offset).isSome)
      (setCorrectionBody input range gain offset)) := rfl

theorem exec_readCorrection (p : Port) (tag input range : Byte) (s : State) :
    exec (.readCorrection p tag input range) s =
      .next (s.command p tag 2 (decodeCorrectionKey input range).isSome (readCorrectionBody input range)) := rfl

theorem setCorrectionBody_of_decoded {input range : Byte} {n : AnalogInput} {r : Fin 4} {offset : Half} {x : Int}
    (hkey : decodeCorrectionKey input range = some (n, r)) (hoffset : decodeOffset offset = some x) (gain : Half)
    (s : State) :
    setCorrectionBody input range gain offset s =
      (s.setCorrection n r ⟨gain.toNat, x⟩, .ok (correctionData n r ⟨gain.toNat, x⟩)) := by
  rw [setCorrectionBody, hkey, hoffset]

theorem readCorrectionBody_of_decoded {input range : Byte} {n : AnalogInput} {r : Fin 4}
    (hkey : decodeCorrectionKey input range = some (n, r)) (s : State) :
    readCorrectionBody input range s = (s, .ok (correctionData n r (s.correction n r))) := by
  rw [readCorrectionBody, hkey]

section
variable {s : State} {p : Port} {input range : Byte} {n : AnalogInput} {r : Fin 4} (tag : Byte)
  (ha : s.accepts p = true)
include ha

theorem answers_setCorrection {offset : Half} {x : Int} (hkey : decodeCorrectionKey input range = some (n, r))
    (hoffset : decodeOffset offset = some x) (gain : Half) :
    Answers (.setCorrection p tag input range gain offset) s p tag .ok (correctionData n r ⟨gain.toNat, x⟩)
      (s.setCorrection n r ⟨gain.toNat, x⟩) := by
  have hx := exec_setCorrection p tag input range gain offset s
  rw [hkey, hoffset] at hx
  refine answers_ok hx ha fun v => ?_
  rw [setCorrectionBody_of_decoded hkey hoffset, State.setCorrection_setPort]

theorem answers_setCorrection_badParameter {offset : Half}
    (hn : decodeCorrectionKey input range = none ∨ decodeOffset offset = none) (gain : Half) :
    Answers (.setCorrection p tag input range gain offset) s p tag .badParameter [] s := by
  have hinvalid : ((decodeCorrectionKey input range).isSome && (decodeOffset offset).isSome) = false := by
    rcases hn with h | h <;> simp [h]
  have hx := exec_setCorrection p tag input range gain offset s
  rw [hinvalid] at hx
  exact answers_badParameter hx ha

theorem answers_readCorrection (hkey : decodeCorrectionKey input range = some (n, r)) :
    Answers (.readCorrection p tag input range) s p tag .ok (correctionData n r (s.correction n r)) s := by
  have hx := exec_readCorrection p tag input range s
  rw [hkey] at hx
  refine answers_ok hx ha fun v => ?_
  rw [readCorrectionBody_of_decoded hkey, State.setPort_correction]

theorem answers_readCorrection_badParameter (hn : decodeCorrectionKey input range = none) :
    Answers (.readCorrection p tag input range) s p tag .badParameter [] s := by
  have hx := exec_readCorrection p tag input range s
  rw [hn] at hx
  exact answers_badParameter hx ha

end

/-- Settles O34: operands within range decode to one key and offset, and the table is written at that key only; one operand out
of range decodes to nothing. -/
theorem correctionsAreWrittenAndRead : Obligations.CorrectionsAreWrittenAndRead := by
  intro s p tag input range gain offset ha
  refine ⟨fun n r hn hr => ⟨fun hlow hhigh => ⟨?answer, ?written, ?others⟩, ?read⟩, fun hout => ⟨?setKey, ?readKey⟩,
    fun hout => ?setOffset⟩
  case answer =>
    have hset := answers_setCorrection tag ha (decodeCorrectionKey_of_toNat hn hr) (decodeOffset_of_within hlow hhigh) gain
    rwa [correctionData_of_operands hn hr] at hset
  case written => rw [State.correction_setCorrection, if_pos ⟨rfl, rfl⟩]
  case others =>
    rintro n' r' hne
    have hkey : ¬ (n = n' ∧ r = r') := by
      rintro ⟨rfl, rfl⟩
      exact hne.elim (· rfl) (· rfl)
    rw [State.correction_setCorrection, if_neg hkey]
  case read =>
    rintro k rfl
    rw [← correctionData_of_toNat hn hr]
    exact answers_readCorrection tag ha (decodeCorrectionKey_of_toNat hn hr)
  case setKey => exact answers_setCorrection_badParameter tag ha (.inl (decodeCorrectionKey_eq_none hout)) gain
  case readKey => exact answers_readCorrection_badParameter tag ha (decodeCorrectionKey_eq_none hout)
  case setOffset => exact answers_setCorrection_badParameter tag ha (.inr (decodeOffset_eq_none hout)) gain

end Sys2Proof.Machine

/-! ### The judgement of one outcome (R145 to R148) -/

namespace Sys2Proof.Machine

theorem Definition.activeBank_eq (d : Definition) :
    d.activeBank = if d.active = .a then d.bankA else d.bankB := by
  unfold Definition.activeBank
  cases d.active <;> rfl

/-- The class that a chain of two tests picks, from the tests' outcomes. -/
theorem ite_ite_eq_of_cases {p q : Prop} [Decidable p] [Decidable q] {a b c x : SignalClass}
    (h : (p ∧ x = a) ∨ (¬p ∧ q ∧ x = b) ∨ (¬p ∧ ¬q ∧ x = c)) : (if p then a else if q then b else c) = x := by
  obtain ⟨hp, rfl⟩ | ⟨hp, hq, rfl⟩ | ⟨hp, hq, rfl⟩ := h
  · rw [if_pos hp]
  · rw [if_neg hp, if_pos hq]
  · rw [if_neg hp, if_neg hq]

/-- The table of R147 gives each value one target class. -/
theorem targetClass_of_targets {c : Condition} {k : Threshold} {v : Int} {x : SignalClass} (h : Targets c k v x) :
    targetClass c k v = x := by
  cases c with
  | above | below | inside | unknown => exact ite_ite_eq_of_cases (by simpa [Targets] using h)

/-- The outcome is no FAULT, and its value has target class `x` under condition `c` (R146, R147). -/
def Delivered.Proposes (o : Delivered) (c : Condition) (k : Threshold) (x : SignalClass) : Prop :=
  ∃ v, o.value = some v ∧ Targets c k v x

theorem Watch.judge_of_fault (w : Watch) {o : Delivered} (ho : o.value = none) :
    w.judge o = ({ w with dyn := { w.dyn with candidate := none } }, CauseSet.fault) := by
  rw [Watch.judge, ho]

theorem Watch.judge_of_proposes {w : Watch} {k : Threshold} {o : Delivered} {x : SignalClass}
    (hbank : w.defn.activeBank = some k) (ho : o.Proposes w.dyn.condition k x) : w.judge o = w.qualifyTo x := by
  obtain ⟨v, hv, htarget⟩ := ho
  simp only [Watch.judge, hv, hbank, targetClass_of_targets htarget]

/-! The three steps of R148. -/

theorem Watch.qualifyTo_of_current {w : Watch} {x : SignalClass} (hx : x.condition = w.dyn.condition) :
    w.qualifyTo x = ({ w with dyn := { w.dyn with candidate := none } }, 0) :=
  if_pos hx

section
variable {w : Watch} {x : SignalClass} (hx : x.condition ≠ w.dyn.condition)
include hx

theorem Watch.qualifyTo_of_support_eq (hn : supportCount w.dyn.candidate x = w.defn.contract.qualify) :
    w.qualifyTo x =
      ({ w with dyn := { w.dyn with condition := x.condition, candidate := none } }, CauseSet.condition) := by
  rw [Watch.qualifyTo, if_neg hx, if_pos hn]

theorem Watch.qualifyTo_of_support_ne (hn : supportCount w.dyn.candidate x ≠ w.defn.contract.qualify) :
    w.qualifyTo x =
      ({ w with dyn := { w.dyn with candidate := some ⟨x, supportCount w.dyn.candidate x⟩ } }, 0) := by
  rw [Watch.qualifyTo, if_neg hx, if_neg hn]

end

/-! ### A watch that counts outcomes of one new class (R148) -/

/-- The candidate after `n` consecutive outcomes that proposed `x`. -/
def Candidate.after (x : SignalClass) : Nat → Option Candidate
  | 0 => none
  | n + 1 => some ⟨x, n + 1⟩

/-- The watch after `n` consecutive outcomes that proposed `x`, while they are too few to change its condition. -/
def Watch.counting (w : Watch) (x : SignalClass) (n : Nat) : Watch :=
  { w with dyn := { w.dyn with candidate := Candidate.after x n } }

theorem Watch.counting_zero {w : Watch} (hc : w.dyn.candidate = none) (x : SignalClass) : w.counting x 0 = w := by
  rw [Watch.counting, Candidate.after, ← hc]

theorem Watch.counting_of_pos (w : Watch) (x : SignalClass) {n : Nat} (hn : 0 < n) :
    w.counting x n = { w with dyn := { w.dyn with candidate := some ⟨x, n⟩ } } := by
  obtain ⟨m, rfl⟩ := Nat.exists_eq_add_of_lt hn
  simp [Watch.counting, Candidate.after]

theorem supportCount_after_same (x : SignalClass) (n : Nat) : supportCount (Candidate.after x n) x = n + 1 := by
  cases n with
  | zero => rfl
  | succ n => exact if_pos rfl

theorem supportCount_after_other {x y : SignalClass} (hne : y ≠ x) (n : Nat) :
    supportCount (Candidate.after x n) y = 1 := by
  cases n with
  | zero => rfl
  | succ n => exact if_neg hne.symm

section
variable {w : Watch} {k : Threshold} {x : SignalClass} {n : Nat} {o : Delivered}

theorem Watch.judge_counting (hbank : w.defn.activeBank = some k) {y : SignalClass}
    (ho : o.Proposes w.dyn.condition k y) : (w.counting x n).judge o = (w.counting x n).qualifyTo y :=
  Watch.judge_of_proposes (w := w.counting x n) hbank ho

theorem Watch.judge_counting_lt (hbank : w.defn.activeBank = some k) (hx : x.condition ≠ w.dyn.condition)
    (ho : o.Proposes w.dyn.condition k x) (hn : n + 1 < w.defn.contract.qualify) :
    (w.counting x n).judge o = (w.counting x (n + 1), 0) := by
  have hcount : supportCount (w.counting x n).dyn.candidate x = n + 1 := supportCount_after_same x n
  have hne : supportCount (w.counting x n).dyn.candidate x ≠ w.defn.contract.qualify := by omega
  rw [Watch.judge_counting hbank ho, Watch.qualifyTo_of_support_ne (w := w.counting x n) hx hne, hcount]
  rfl

theorem Watch.judge_counting_eq (hbank : w.defn.activeBank = some k) (hx : x.condition ≠ w.dyn.condition)
    (ho : o.Proposes w.dyn.condition k x) (hn : n + 1 = w.defn.contract.qualify) :
    (w.counting x n).judge o =
      ({ w with dyn := { w.dyn with condition := x.condition, candidate := none } }, CauseSet.condition) := by
  have hcount : supportCount (w.counting x n).dyn.candidate x = w.defn.contract.qualify :=
    (supportCount_after_same x n).trans hn
  rw [Watch.judge_counting hbank ho, Watch.qualifyTo_of_support_eq (w := w.counting x n) hx hcount]
  rfl

theorem Watch.judge_counting_current (hbank : w.defn.activeBank = some k) {y : SignalClass}
    (ho : o.Proposes w.dyn.condition k y) (hy : y.condition = w.dyn.condition) :
    (w.counting x n).judge o = ({ w with dyn := { w.dyn with candidate := none } }, 0) :=
  (Watch.judge_counting hbank ho).trans (Watch.qualifyTo_of_current hy)

theorem Watch.judge_counting_other (hbank : w.defn.activeBank = some k) {y : SignalClass}
    (ho : o.Proposes w.dyn.condition k y) (hy : y.condition ≠ w.dyn.condition) (hne : y ≠ x)
    (hq : 1 < w.defn.contract.qualify) :
    (w.counting x n).judge o = ({ w with dyn := { w.dyn with candidate := some ⟨y, 1⟩ } }, 0) := by
  have hcount : supportCount (w.counting x n).dyn.candidate y = 1 := supportCount_after_other hne n
  have hone : supportCount (w.counting x n).dyn.candidate y ≠ w.defn.contract.qualify := by omega
  rw [Watch.judge_counting hbank ho, Watch.qualifyTo_of_support_ne (w := w.counting x n) hy hone, hcount]
  rfl

end

/-! ### A run of outcomes -/

/-- The watch that consecutive outcomes leave, and the causes the last of them raises. -/
def Watch.judgeAll (w : Watch) (os : List Delivered) : Watch × CauseSet :=
  os.foldl (fun v o => v.1.judge o) (w, 0)

theorem Watch.judgeAll_concat (w : Watch) (os : List Delivered) (o : Delivered) :
    w.judgeAll (os ++ [o]) = (w.judgeAll os).1.judge o := by
  rw [Watch.judgeAll, List.foldl_concat, Watch.judgeAll]

section
variable {w : Watch} {k : Threshold} {x : SignalClass} {os : List Delivered}
  (hbank : w.defn.activeBank = some k) (hc : w.dyn.candidate = none) (hx : x.condition ≠ w.dyn.condition)
  (hall : ∀ o ∈ os, o.Proposes w.dyn.condition k x)
include hbank hc hx hall

/-- Fewer outcomes than qualify only count. -/
theorem Watch.judgeAll_of_lt (hlt : os.length < w.defn.contract.qualify) :
    w.judgeAll os = (w.counting x os.length, 0) := by
  induction os using List.reverseRecOn with
  | nil => exact congrArg (·, 0) (Watch.counting_zero hc x).symm
  | append_singleton os o ih =>
    rw [List.length_append, List.length_singleton] at hlt ⊢
    rw [List.forall_mem_append, List.forall_mem_singleton] at hall
    obtain ⟨hos, ho⟩ := hall
    rw [Watch.judgeAll_concat, ih hos (by omega), Watch.judge_counting_lt hbank hx ho hlt]

/-- The outcome that makes them as many as qualify changes the condition. -/
theorem Watch.judgeAll_of_eq (hne : os ≠ []) (heq : os.length = w.defn.contract.qualify) :
    w.judgeAll os =
      ({ w with dyn := { w.dyn with condition := x.condition, candidate := none } }, CauseSet.condition) := by
  obtain ⟨l, o, rfl⟩ := (List.eq_nil_or_concat' os).resolve_left hne
  rw [List.length_append, List.length_singleton] at heq
  rw [List.forall_mem_append, List.forall_mem_singleton] at hall
  obtain ⟨hl, ho⟩ := hall
  rw [Watch.judgeAll_concat, Watch.judgeAll_of_lt hbank hc hx hl (by omega), Watch.judge_counting_eq hbank hx ho heq]

end

/-- Settles O54: a run shorter than qualify leaves the watch counting, and what the next outcome does is read off there. -/
theorem conditionChangesAfterQualifyOutcomes : Obligations.ConditionChangesAfterQualifyOutcomes := by
  intro w k x os run hbank hc hx hne hall
  rw [← Definition.activeBank_eq] at hbank
  have hpos : 0 < os.length := List.length_pos_iff.2 hne
  refine ⟨fun hlt => ?fewer, fun heq => Watch.judgeAll_of_eq hbank hc hx hall hne heq⟩
  have hrun : run = (w.counting x os.length, 0) := Watch.judgeAll_of_lt hbank hc hx hall hlt
  rw [hrun]
  refine ⟨?counts, fun o ho => ?fault, fun o v y hv hy hother => ⟨fun hcur => ?current, fun hnew => ?another⟩⟩
  case counts => rw [Watch.counting_of_pos w x hpos]
  case fault => exact Watch.judge_of_fault (w.counting x os.length) ho
  case current => exact Watch.judge_counting_current hbank ⟨v, hv, hy⟩ hcur
  case another => exact Watch.judge_counting_other hbank ⟨v, hv, hy⟩ hnew hother (by omega)

end Sys2Proof.Machine

/-! ### The attention line (R158) -/

namespace Sys2Proof.Machine

theorem Attention.nonempty_iff (a : Attention) : a.nonempty = true ↔ ∃ i : EntryIndex, a.causes[i] ≠ 0 := by
  simp [Attention.nonempty, Vector.any_eq_true, Fin.exists_iff]

theorem State.attentionLine_iff (s : State) (p : Port) :
    s.attentionLine p = true ↔ (s.attention p).enable = true ∧ ∃ i : EntryIndex, (s.attention p).causes[i] ≠ 0 := by
  rw [State.attentionLine, Bool.and_eq_true, Attention.nonempty_iff]

/-- A port's line depends on that port's context alone. -/
theorem State.attentionLine_setAttention_otherPort (s : State) (p : Port) (v : Attention) :
    (s.setAttention p v).attentionLine (otherPort p) = s.attentionLine (otherPort p) := by
  have hne : p ≠ otherPort p := by cases p <;> decide
  rw [State.attentionLine, State.attentionLine, State.attention_setAttention, if_neg hne]

/-! ### ATTENTION ENABLE (R162) -/

theorem decodeSwitch_of_encoding {value : Byte} {on : Bool} (h : (value = 0 ∧ on = false) ∨ (value = 1 ∧ on = true)) :
    decodeSwitch value = some on := by
  obtain ⟨rfl, rfl⟩ | ⟨rfl, rfl⟩ := h <;> rfl

theorem decodeSwitch_eq_none {value : Byte} (h0 : value ≠ 0) (h1 : value ≠ 1) : decodeSwitch value = none := by
  unfold decodeSwitch
  split
  case h_1 => exact absurd rfl h0
  case h_2 => exact absurd rfl h1
  case h_3 => rfl

theorem exec_attentionEnable (p : Port) (tag value : Byte) (s : State) :
    exec (.attentionEnable p tag value) s =
      .next (s.command p tag 1 (decodeSwitch value).isSome (attentionEnableBody p value)) := rfl

theorem attentionEnableBody_of_decoded {value : Byte} {on : Bool} (hon : decodeSwitch value = some on) (p : Port)
    (s : State) :
    attentionEnableBody p value s = (s.setAttention p { s.attention p with enable := on }, .ok []) := by
  rw [attentionEnableBody, hon]

section
variable {s : State} {p : Port} {value : Byte} (tag : Byte) (ha : s.accepts p = true)
include ha

theorem answers_attentionEnable {on : Bool} (hon : decodeSwitch value = some on) :
    Answers (.attentionEnable p tag value) s p tag .ok []
      (s.setAttention p { s.attention p with enable := on }) := by
  have hx := exec_attentionEnable p tag value s
  rw [hon] at hx
  refine answers_ok hx ha fun v => ?_
  rw [attentionEnableBody_of_decoded hon, State.setPort_attention, State.setAttention_setPort]

theorem answers_attentionEnable_badParameter (hn : decodeSwitch value = none) :
    Answers (.attentionEnable p tag value) s p tag .badParameter [] s := by
  have hx := exec_attentionEnable p tag value s
  rw [hn] at hx
  exact answers_badParameter hx ha

end

/-- Settles O33: the two switch bytes decode, the block writes the enable under the decoded value, and the line reads enable and
set of the written context. -/
theorem attentionEnableGovernsTheLine : Obligations.AttentionEnableGovernsTheLine := by
  intro s p tag value ha
  refine ⟨fun on hvalue => ⟨?answer, ?line, ?otherLine⟩, fun h0 h1 => ?refusal⟩
  case answer => exact answers_attentionEnable tag ha (decodeSwitch_of_encoding hvalue)
  case line => rw [State.attentionLine_iff, State.attention_setAttention, if_pos rfl]
  case otherLine => exact State.attentionLine_setAttention_otherPort s p _
  case refusal => exact answers_attentionEnable_badParameter tag ha (decodeSwitch_eq_none h0 h1)

end Sys2Proof.Machine

/-! ### What the work on watches leaves alone -/

namespace Sys2Proof.Machine

/-- A state with its watches and their work blanked: entries, due list, requests, engines, wait list and attention. What
operations on watches leave of a state is that this stays. -/
def State.surroundings (s : State) : State :=
  { s with
    entries := Vector.replicate 64 Entry.powerOn
    dueList := []
    conv0 := { Converter.afterReset with fault := s.conv0.fault }
    conv1 := { Converter.afterReset with fault := s.conv1.fault }
    engines := Vector.replicate 4 Engine.freed
    waitList := []
    attentionA := Attention.afterReset
    attentionB := Attention.afterReset }

theorem State.hold_eq_of_surroundings {s t : State} (h : t.surroundings = s.surroundings) (p : Port) : t.hold p = s.hold p := by
  cases p
  · exact (congrArg State.holdA h :)
  · exact (congrArg State.holdB h :)

theorem State.line_eq_of_surroundings {s t : State} (h : t.surroundings = s.surroundings) (l : TrgLine) :
    t.line l = s.line l := by
  cases l
  · exact (congrArg State.trg0 h :)
  · exact (congrArg State.trg1 h :)

theorem State.port_eq_of_surroundings {s t : State} (h : t.surroundings = s.surroundings) (p : Port) : t.port p = s.port p := by
  cases p
  · exact (congrArg State.portA h :)
  · exact (congrArg State.portB h :)

theorem State.isHeld_eq_of_surroundings {s t : State} (h : t.surroundings = s.surroundings) : t.isHeld = s.isHeld :=
  (congrArg State.isHeld h :)

theorem State.fault_eq_of_surroundings {s t : State} (h : t.surroundings = s.surroundings) (c : ConverterId) :
    (t.converter c).fault = (s.converter c).fault := by
  cases c
  · exact (congrArg (fun u : State => u.conv0.fault) h :)
  · exact (congrArg (fun u : State => u.conv1.fault) h :)

section
variable (s : State)

@[simp] theorem State.surroundings_setEntry (i : EntryIndex) (e : Entry) : (s.setEntry i e).surroundings = s.surroundings := rfl

@[simp] theorem State.surroundings_setEngine (e : EngineIndex) (v : Engine) : (s.setEngine e v).surroundings = s.surroundings := rfl

@[simp] theorem State.surroundings_setAttention (p : Port) (a : Attention) :
    (s.setAttention p a).surroundings = s.surroundings := by cases p <;> rfl

theorem State.surroundings_setConverter {c : ConverterId} {v : Converter} (h : v.fault = (s.converter c).fault) :
    (s.setConverter c v).surroundings = s.surroundings := by
  cases c <;> simp only [State.surroundings, State.setConverter] <;> rw [h] <;> rfl

@[simp] theorem State.surroundings_dueList (l : List DueMember) : { s with dueList := l }.surroundings = s.surroundings := rfl

@[simp] theorem State.surroundings_waitList (l : List EntryIndex) : { s with waitList := l }.surroundings = s.surroundings := rfl

@[simp] theorem State.surroundings_setActivity (i : EntryIndex) (a : Activity) :
    (s.setActivity i a).surroundings = s.surroundings := rfl

@[simp] theorem State.surroundings_withWatchAt (i : EntryIndex) (w : Watch) :
    (s.withWatchAt i w).surroundings = s.surroundings := rfl

@[simp] theorem State.surroundings_updateWatch (i : EntryIndex) (f : Watch → Watch) :
    (s.updateWatch i f).surroundings = s.surroundings := by
  unfold State.updateWatch
  split <;> simp

@[simp] theorem State.surroundings_raise (i : EntryIndex) (cs : CauseSet) : (s.raise i cs).surroundings = s.surroundings := by
  unfold State.raise
  split <;> simp [State.addCauses]

@[simp] theorem State.surroundings_removeMember (p : Port) (i : EntryIndex) :
    (s.removeMember p i).surroundings = s.surroundings := by simp [State.removeMember]

@[simp] theorem State.surroundings_countOverrun (i : EntryIndex) : (s.countOverrun i).surroundings = s.surroundings := by
  simp [State.countOverrun]

@[simp] theorem State.surroundings_joinDueList (i : EntryIndex) (d : DeviceTime) :
    (s.joinDueList i d).surroundings = s.surroundings := State.surroundings_updateWatch s i _

@[simp] theorem State.surroundings_leaveDueList (i : EntryIndex) : (s.leaveDueList i).surroundings = s.surroundings :=
  State.surroundings_updateWatch s i _

@[simp] theorem State.surroundings_clearHeld (i : EntryIndex) : (s.clearHeld i).surroundings = s.surroundings :=
  State.surroundings_updateWatch s i _

@[simp] theorem State.surroundings_setLateness (i : EntryIndex) (l : Lateness) :
    (s.setLateness i l).surroundings = s.surroundings := rfl

@[simp] theorem State.surroundings_settleLateness : s.settleLateness.surroundings = s.surroundings := rfl

/-! Converters. -/

@[simp] theorem State.surroundings_submit (i : EntryIndex) (n : AnalogInput) (r : Fin 4) (d : Nat) :
    (s.submit i n r d).1.surroundings = s.surroundings := by
  unfold State.submit
  dsimp only
  split
  · exact State.surroundings_setConverter s rfl
  · split
    · exact State.surroundings_setConverter s rfl
    · rfl

@[simp] theorem State.surroundings_unsubscribe (i : EntryIndex) : (s.unsubscribe i).surroundings = s.surroundings := rfl

@[simp] theorem State.surroundings_markConverting (l : List EntryIndex) :
    (s.markConverting l).surroundings = s.surroundings := by
  unfold State.markConverting
  induction l generalizing s with
  | nil => rfl
  | cons i l ih => rw [List.foldl_cons, ih, State.surroundings_setActivity]

@[simp] theorem State.surroundings_takeNext (c : ConverterId) : (s.takeNext c).surroundings = s.surroundings := by
  unfold State.takeNext
  dsimp only
  split
  · exact State.surroundings_setConverter s rfl
  · rw [State.surroundings_markConverting]
    exact State.surroundings_setConverter s rfl

@[simp] theorem State.surroundings_startIdle (c : ConverterId) : (s.startIdle c).surroundings = s.surroundings := by
  unfold State.startIdle
  split <;> simp

/-! Engines. -/

@[simp] theorem State.surroundings_assignEngine (e : EngineIndex) (i : EntryIndex) (m : Measurement) (x : Nat) :
    (s.assignEngine e i m x).surroundings = s.surroundings := rfl

@[simp] theorem State.surroundings_requestEngine (i : EntryIndex) (m : Measurement) (x : Nat) :
    (s.requestEngine i m x).surroundings = s.surroundings := by
  unfold State.requestEngine
  split <;> rfl

theorem surroundings_handOver (e : EngineIndex) (l : List EntryIndex) : (handOver s e l).surroundings = s.surroundings := by
  induction l with
  | nil => rfl
  | cons i l ih =>
    unfold handOver
    split
    · exact ih
    · rfl

@[simp] theorem State.surroundings_releaseEngine (e : EngineIndex) : (s.releaseEngine e).surroundings = s.surroundings :=
  surroundings_handOver s e _

@[simp] theorem State.surroundings_leaveWaitList (i : EntryIndex) : (s.leaveWaitList i).surroundings = s.surroundings := rfl

@[simp] theorem State.surroundings_abandon (i : EntryIndex) : (s.abandon i).surroundings = s.surroundings := by
  unfold State.abandon
  split <;> simp

/-! Starts and expiries. -/

@[simp] theorem State.surroundings_startByPolicy (i : EntryIndex) (w : Watch) :
    (s.startByPolicy i w).1.surroundings = s.surroundings := by
  unfold State.startByPolicy State.overrunStart
  split <;> simp

@[simp] theorem State.surroundings_startWork (i : EntryIndex) (w : Watch) :
    (s.startWork i w).1.surroundings = s.surroundings := by
  unfold State.startWork
  split
  · rename_i n r d _
    have hs := State.surroundings_submit s i n r d
    revert hs
    generalize s.submit i n r d = x
    obtain ⟨t, k⟩ := x
    cases k
    · exact id
    · exact id
    · exact id
    · exact fun _ => State.surroundings_countOverrun s i
  · simp

@[simp] theorem State.surroundings_startRequest (i : EntryIndex) (w : Watch) :
    (s.startRequest i w).1.surroundings = s.surroundings := by
  unfold State.startRequest
  split <;> simp

@[simp] theorem State.surroundings_startAny (i : EntryIndex) (w : Watch) :
    (s.startAny i w).1.surroundings = s.surroundings := by
  unfold State.startAny
  split <;> simp

@[simp] theorem State.surroundings_fanOutTo (l : TrgLine) (i : EntryIndex) :
    (State.fanOutTo l s i).surroundings = s.surroundings := by
  unfold State.fanOutTo
  split
  · split <;> simp
  · rfl

/-- The entries that a fan-out examines change nothing but watches and their work, whatever they are. -/
@[simp] theorem State.surroundings_fanOutTo_foldl (l : TrgLine) (is : List EntryIndex) :
    (is.foldl (State.fanOutTo l) s).surroundings = s.surroundings := by
  induction is generalizing s with
  | nil => rfl
  | cons i is ih => rw [List.foldl_cons, ih, State.surroundings_fanOutTo]

@[simp] theorem State.surroundings_serviceHeld (i : EntryIndex) : (s.serviceHeld i).surroundings = s.surroundings := by
  unfold State.serviceHeld
  split
  · rfl
  · split <;> simp

@[simp] theorem State.surroundings_expire (i : EntryIndex) (l : Lateness) : (s.expire i l).surroundings = s.surroundings := by
  unfold State.expire
  split
  · split
    · dsimp only
      split
      · split <;> simp
      · rw [State.surroundings_startRequest]
        split <;> simp
    · simp
  · simp

/-! Deliveries and the ends of watches. -/

@[simp] theorem State.surroundings_endOnce (i : EntryIndex) : (s.endOnce i).surroundings = s.surroundings := by
  simp [State.endOnce]

@[simp] theorem State.surroundings_completeHeld (i : EntryIndex) : (s.completeHeld i).surroundings = s.surroundings := by
  unfold State.completeHeld
  split <;> simp

@[simp] theorem State.surroundings_deliverArmed (i : EntryIndex) (w : Watch) (o : Delivered) :
    (s.deliverArmed i w o).surroundings = s.surroundings := by
  unfold State.deliverArmed
  dsimp only
  split <;> simp

@[simp] theorem State.surroundings_deliver (i : EntryIndex) (o : Delivered) : (s.deliver i o).surroundings = s.surroundings := by
  unfold State.deliver
  dsimp only
  split <;> simp

@[simp] theorem State.surroundings_deliverFromConverter (c : ConverterId) (i : EntryIndex) :
    (s.deliverFromConverter c i).surroundings = s.surroundings := by
  unfold State.deliverFromConverter
  dsimp only
  split
  · split
    · split
      · rw [State.surroundings_takeNext, State.surroundings_deliver]
        exact State.surroundings_setConverter s rfl
      · rw [State.surroundings_deliver]
        exact State.surroundings_setConverter s rfl
    · rfl
  · rfl

@[simp] theorem State.surroundings_deliverFromEngine (e : EngineIndex) :
    (s.deliverFromEngine e).surroundings = s.surroundings := by
  unfold State.deliverFromEngine
  dsimp only
  split <;> simp

@[simp] theorem State.surroundings_takeDelivery (source : DeliverySource) :
    (s.takeDelivery source).surroundings = s.surroundings := by
  cases source <;> simp [State.takeDelivery]

@[simp] theorem State.surroundings_settleCompletion (i : EntryIndex) :
    (s.settleCompletion i).surroundings = s.surroundings := by
  unfold State.settleCompletion
  split <;> simp

@[simp] theorem State.surroundings_letGo (i : EntryIndex) : (s.letGo i).surroundings = s.surroundings := by
  unfold State.letGo
  split <;> simp

@[simp] theorem State.surroundings_disarmWatch (i : EntryIndex) : (s.disarmWatch i).surroundings = s.surroundings := by
  simp [State.disarmWatch]

@[simp] theorem State.surroundings_retireWatch (p : Port) (i : EntryIndex) :
    (s.retireWatch p i).surroundings = s.surroundings := by
  unfold State.retireWatch
  dsimp only
  split <;> simp

@[simp] theorem State.surroundings_retireOwned (p : Port) (i : EntryIndex) :
    (State.retireOwned p s i).surroundings = s.surroundings := by
  unfold State.retireOwned
  split <;> simp

end

end Sys2Proof.Machine

/-! ### The passing of time (R46, log 2) -/

namespace Sys2Proof.Machine

section
variable (s : State) (n : Nat)

@[simp] theorem State.elapse_entry (i : EntryIndex) : (s.elapse n).entry i = s.entry i := rfl

@[simp] theorem State.elapse_dueList : (s.elapse n).dueList = s.dueList := rfl

@[simp] theorem State.elapse_hold (p : Port) : (s.elapse n).hold p = s.hold p := by cases p <;> rfl

@[simp] theorem State.elapse_isHeld : (s.elapse n).isHeld = s.isHeld := rfl

@[simp] theorem State.elapse_check : (s.elapse n).check = s.check := rfl

@[simp] theorem State.elapse_waitList : (s.elapse n).waitList = s.waitList := rfl

@[simp] theorem State.elapse_attention (p : Port) : (s.elapse n).attention p = s.attention p := by cases p <;> rfl

@[simp] theorem State.elapse_resetAsserted : (s.elapse n).resetAsserted = s.resetAsserted := rfl

@[simp] theorem State.elapse_correction (i : AnalogInput) (r : Fin 4) : (s.elapse n).correction i r = s.correction i r := rfl

@[simp] theorem State.elapse_line (l : TrgLine) : (s.elapse n).line l = (s.line l).elapse n := by cases l <;> rfl

@[simp] theorem State.elapse_converter (c : ConverterId) : (s.elapse n).converter c = (s.converter c).elapse n := by
  cases c <;> rfl

@[simp] theorem State.elapse_engine (e : EngineIndex) : (s.elapse n).engine e = (s.engine e).elapse n := by
  fin_cases e <;> rfl

@[simp] theorem State.elapse_din (d : TimingInput) : (s.elapse n).din d = (s.din d).elapse n := by
  fin_cases d <;> rfl

/-- Time passes a window by. -/
@[simp] theorem State.elapse_window (p : Port) : ((s.elapse n).port p).window = (s.port p).window := by
  cases p
  · rfl
  · show (s.portB.elapse n).window = s.portB.window
    unfold PortState.elapse
    split <;> rfl

@[simp] theorem Converter.elapse_state (v : Converter) : (v.elapse n).state = v.state := rfl

@[simp] theorem Converter.elapse_current (v : Converter) : (v.elapse n).current = v.current := rfl

@[simp] theorem Converter.elapse_queue (v : Converter) : (v.elapse n).queue = v.queue := rfl

@[simp] theorem Converter.elapse_delivering (v : Converter) : (v.elapse n).delivering = v.delivering := rfl

@[simp] theorem Converter.elapse_fault (v : Converter) : (v.elapse n).fault = v.fault := rfl

@[simp] theorem Engine.elapse_state (v : Engine) : (v.elapse n).state = v.state := by
  unfold Engine.elapse
  cases h : v.state <;> simp [h]

@[simp] theorem Engine.elapse_expiry (v : Engine) : (v.elapse n).expiry = v.expiry := by
  unfold Engine.elapse
  split <;> rfl

@[simp] theorem Engine.elapse_count (v : Engine) : (v.elapse n).count = v.count := by
  unfold Engine.elapse
  split <;> rfl

/-- Time runs to an event by the time it needs, where nothing timed is due sooner (log 4). -/
theorem State.runTo_eq_some {s s' : State} {left : Option Nat} :
    s.runTo left = some s' ↔ ∃ n, left = some n ∧ s.NothingSooner n ∧ s' = s.elapse n := by
  unfold State.runTo State.NothingSooner
  cases left with
  | none => simp
  | some n =>
    simp only [List.all_eq_true, decide_eq_true_eq, Option.ite_none_right_eq_some, Option.some.injEq, exists_eq_left']
    exact and_congr_right fun _ => eq_comm

theorem State.runTo_of_nothingSooner {s : State} {n : Nat} (h : s.NothingSooner n) :
    s.runTo (some n) = some (s.elapse n) :=
  State.runTo_eq_some.mpr ⟨n, rfl, h, rfl⟩

end

end Sys2Proof.Machine

/-! ### What a step is made of

Every invariant is kept by a step because it is kept by the few operations that touch what it speaks of. `Kept P` lists those
operations with what is known where a step does them, and `Kept.step` says that a step is made of nothing else. -/

namespace Sys2Proof.Machine

/-- Every member of the family `P` that holds before `f` holds after it. -/
def Keeps {ι : Type} (P : ι → State → Prop) (f : State → State) : Prop := ∀ j s, P j s → P j (f s)

theorem Keeps.foldl {ι α : Type} {P : ι → State → Prop} {f : State → α → State} (hf : ∀ a, Keeps P fun s => f s a)
    (l : List α) : Keeps P fun s => l.foldl f s := by
  intro j s hP
  induction l generalizing s with
  | nil => exact hP
  | cons a l ih => exact ih (f s a) (hf a j s hP)

/-! What no invariant speaks of. -/

def TrgContext.core (v : TrgContext) : TrgContext := { v with edge := .rising, level := .low, count := 0, raw := .low, rawHeld := 0 }

def Converter.core (v : Converter) : Converter := { v with fault := false, timer := 0, delivering := none }

def Attention.core (v : Attention) : Attention := { v with cursor := 0, enable := false }

/-- A state with everything blanked that no invariant speaks of: time, levels, timers, corrections, ports and the model's own. -/
def State.core (s : State) : State :=
  { s with
    now := 0
    micro := 0
    trg0 := s.trg0.core
    trg1 := s.trg1.core
    conv0 := s.conv0.core
    conv1 := s.conv1.core
    check := CheckContext.afterReset
    corrections := Vector.replicate 64 Correction.identity
    dins := Vector.replicate 8 (DinContext.afterReset .low)
    attentionA := s.attentionA.core
    attentionB := s.attentionB.core
    portA := PortState.afterReset
    portB := PortState.afterReset
    addressB := 0
    resetAsserted := false
    samples := 0
    pending := [] }

@[simp] theorem State.core_setPort (s : State) (p : Port) (v : PortState) : (s.setPort p v).core = s.core := by cases p <;> rfl

theorem State.core_setConverter {s : State} {c : ConverterId} {v : Converter} (h : v.core = (s.converter c).core) :
    (s.setConverter c v).core = s.core := by
  cases c <;> simp only [State.core, State.setConverter] <;> rw [h] <;> rfl

theorem State.core_setAttention {s : State} {p : Port} {v : Attention} (h : v.core = (s.attention p).core) :
    (s.setAttention p v).core = s.core := by
  cases p <;> simp only [State.core, State.setAttention] <;> rw [h] <;> rfl

/-- What the passing of time and a transition of an input make of an engine, as far as an invariant speaks of it. -/
structure Engine.GoesOnAs (v v' : Engine) : Prop where
  holder : v'.holder = v.holder
  measurement : v'.measurement = v.measurement
  free : v'.state = .free ↔ v.state = .free
  reserved : v'.state = .reserved → v' = v ∨ v'.outcome.isSome = true

theorem Engine.GoesOnAs.refl (v : Engine) : v.GoesOnAs v := ⟨rfl, rfl, .rfl, fun _ => .inl rfl⟩

theorem Engine.goesOnAs_elapse (v : Engine) (n : Nat) : v.GoesOnAs (v.elapse n) := by
  unfold Engine.elapse
  split
  case h_1 | h_2 => exact .refl v
  case h_3 h => exact ⟨rfl, rfl, .rfl, fun hr => by simp [h] at hr⟩
  case h_4 hr _ => exact ⟨rfl, rfl, .rfl, fun h => absurd h hr⟩

theorem Engine.goesOnAs_completed {v : Engine} (h : v.state ≠ .free) (status : OutcomeStatus) (value : Nat) :
    v.GoesOnAs (v.completed status value) := ⟨rfl, rfl, by simp [Engine.completed, h], fun _ => .inr rfl⟩

theorem Engine.goesOnAs_onTransition (v : Engine) (m : Measurement) (level : Level) :
    v.GoesOnAs (v.onTransition m level) := by
  unfold Engine.onTransition
  dsimp only
  split
  case h_1 h =>
    split
    · exact ⟨rfl, rfl, by simp [h], fun hr => nomatch hr⟩
    · exact .refl v
  case h_2 h =>
    have hc := Engine.goesOnAs_completed (v := v) (by simp [h]) .normal v.timed
    split
    · split
      · exact hc
      · exact .refl v
    · split
      · exact .refl v
      · exact hc
    · exact .refl v
  case h_3 h =>
    split
    · exact ⟨rfl, rfl, .rfl, fun hr => by simp [h] at hr⟩
    · exact .refl v
  case h_4 => exact .refl v

theorem Engine.goesOnAs_see (v : Engine) (n : TimingInput) (level : Level) : v.GoesOnAs (v.see n level) := by
  unfold Engine.see
  split
  · exact .refl v
  · split
    · exact Engine.goesOnAs_onTransition v _ level
    · exact .refl v

theorem mapEngines_get (f : Engine → Engine) (v : Vector Engine 4) (e : EngineIndex) : (mapEngines f v)[e] = f v[e] := by
  fin_cases e <;> rfl

/-- A line as R68 and R73 have it. -/
def TrgContext.Ok (v : TrgContext) : Prop :=
  (v.waiting = true → v.fanOut ≠ none) ∧ (v.sub.isSome = true ↔ v.mode = .once) ∧ ∀ k, v.fanOut = some k → k < 64

/-- Entry `i` is DEFINED or ARMED and carries watch `w`. -/
structure State.Carries (s : State) (i : EntryIndex) (w : Watch) : Prop where
  watch : (s.entry i).watch = some w
  addressable : (s.entry i).addressable = true

/-- Entry `i` is ARMED and carries watch `w`. -/
structure State.Armed (s : State) (i : EntryIndex) (w : Watch) : Prop where
  state : (s.entry i).state = .armed
  watch : (s.entry i).watch = some w

theorem State.Carries.not_free {s : State} {i : EntryIndex} {w : Watch} (h : s.Carries i w) :
    (s.entry i).state ≠ .free ∧ (s.entry i).state ≠ .retiring := by
  have := h.addressable
  simp only [Entry.addressable, Bool.or_eq_true, decide_eq_true_eq] at this
  rcases this with h | h <;> simp [h]

theorem State.Carries.armed {s : State} {i : EntryIndex} {w : Watch} (h : s.Carries i w)
    (hs : (s.entry i).state = .armed) : s.Armed i w := ⟨hs, h.watch⟩

/-! ### Changes of one watch -/

/-- A change of a watch leaves every other entry, and all of its own entry but the watch. -/
@[simp] theorem State.updateWatch_entry (s : State) (i j : EntryIndex) (f : Watch → Watch) :
    (s.updateWatch i f).entry j = if i = j then { s.entry i with watch := (s.entry i).watch.map f } else s.entry j := by
  unfold State.updateWatch
  split
  · rename_i hw
    split
    · rename_i h
      subst h
      rw [hw, Option.map_none, ← hw]
    · rfl
  · rename_i w hw
    rw [State.entry_setEntry, hw, Option.map_some]

@[simp] theorem State.leaveDueList_entry (s : State) (i j : EntryIndex) :
    (s.leaveDueList i).entry j = if i = j then { s.entry i with
      watch := (s.entry i).watch.map fun w => { w with dyn := { w.dyn with due := none } } } else s.entry j :=
  State.updateWatch_entry s i j _

@[simp] theorem State.joinDueList_entry (s : State) (i j : EntryIndex) (d : DeviceTime) :
    (s.joinDueList i d).entry j = if i = j then { s.entry i with
      watch := (s.entry i).watch.map fun w => { w with dyn := { w.dyn with due := some d } } } else s.entry j :=
  State.updateWatch_entry s i j _

@[simp] theorem State.clearHeld_entry (s : State) (i j : EntryIndex) :
    (s.clearHeld i).entry j = if i = j then { s.entry i with
      watch := (s.entry i).watch.map fun w => { w with dyn := { w.dyn with heldTrigger := false } } } else s.entry j :=
  State.updateWatch_entry s i j _

@[simp] theorem State.countOverrun_entry (s : State) (i j : EntryIndex) :
    (s.countOverrun i).entry j = if i = j then { s.entry i with
      watch := (s.entry i).watch.map fun w => { w with dyn := { w.dyn with overruns := advanceOverruns w.dyn.overruns } } }
      else s.entry j := by
  rw [State.countOverrun, State.raise_entry, State.updateWatch_entry]

/-! ### Starts -/

/-- What a start is made of (R54 to R57). -/
structure StartsKept {ι : Type} (P : ι → State → Prop) : Prop where
  clearHeld : ∀ i, Keeps P fun s => s.clearHeld i
  holdTrigger : ∀ {j s i w}, P j s → s.Armed i w → w.defn.contract.policy = .hold →
    P j (s.updateWatch i fun w => { w with dyn := { w.dyn with heldTrigger := true } })
  countOverrun : ∀ {j s i w}, P j s → s.Armed i w → P j (s.countOverrun i)
  submit : ∀ {j s i w n r d}, P j s → s.Armed i w → (s.entry i).activity = .none →
    w.defn.contract.measure = .level n r d → P j (s.submit i n r d).1
  requestEngine : ∀ {j s i w k n pol span}, P j s → s.Armed i w → (s.entry i).activity = .none →
    w.defn.contract.measure = .timing k n pol span → P j (s.requestEngine i ⟨k, n, pol⟩ (span * 1000))

section
variable {ι : Type} {P : ι → State → Prop} (K : StartsKept P)
include K

theorem StartsKept.startByPolicy {j : ι} {s : State} {i : EntryIndex} {w : Watch} (hP : P j s) (ha : s.Armed i w) :
    P j (s.startByPolicy i w).1 := by
  unfold State.startByPolicy State.overrunStart
  split
  · rename_i h
    exact K.holdTrigger hP ha h.1
  · exact K.countOverrun hP ha

theorem StartsKept.startWork {j : ι} {s : State} {i : EntryIndex} {w : Watch} (hP : P j s) (ha : s.Armed i w)
    (hn : (s.entry i).activity = .none) : P j (s.startWork i w).1 := by
  unfold State.startWork
  split
  · rename_i n r d hm
    have hs := K.submit hP ha hn hm
    revert hs
    generalize s.submit i n r d = x
    obtain ⟨t, k⟩ := x
    cases k
    · exact id
    · exact id
    · exact id
    · exact fun _ => K.countOverrun hP ha
  · rename_i hm
    exact K.requestEngine hP ha hn hm

theorem StartsKept.startRequest {j : ι} {s : State} {i : EntryIndex} {w : Watch} (hP : P j s) (ha : s.Armed i w) :
    P j (s.startRequest i w).1 := by
  unfold State.startRequest
  split
  · rename_i hn
    exact K.startWork hP ha hn
  · exact K.startByPolicy hP ha

theorem StartsKept.startAny {j : ι} {s : State} {i : EntryIndex} {w : Watch} (hP : P j s) (ha : s.Armed i w) :
    P j (s.startAny i w).1 := by
  unfold State.startAny
  split
  · exact K.startByPolicy hP ha
  · exact K.startRequest hP ha

theorem StartsKept.fanOutTo (l : TrgLine) (i : EntryIndex) : Keeps P fun s => State.fanOutTo l s i := by
  intro j s hP
  show P j (State.fanOutTo l s i)
  unfold State.fanOutTo
  split
  · rename_i w hs hw
    split
    · exact K.startAny hP ⟨hs, hw⟩
    · exact hP
  · exact hP

theorem StartsKept.serviceHeld (i : EntryIndex) : Keeps P fun s => s.serviceHeld i := by
  intro j s hP
  show P j (s.serviceHeld i)
  unfold State.serviceHeld
  split
  · exact hP
  · rename_i w hw
    split
    · rename_i h
      exact K.startRequest (K.clearHeld i j s hP) ⟨by simp [h.1], by simp [hw]⟩
    · exact hP

theorem StartsKept.completeHeld (i : EntryIndex) : Keeps P fun s => s.completeHeld i := by
  intro j s hP
  show P j (s.completeHeld i)
  unfold State.completeHeld
  split
  · exact hP
  · exact K.serviceHeld i j s hP

/-- An expiry is kept where its change of the due list is (R50, R51). -/
theorem StartsKept.expire {j : ι} {s : State} {i : EntryIndex} {l : Lateness}
    (hleave : (∀ w n due, s.Armed i w → w.defn.contract.start = .interval n → w.dyn.due ≠ some due) → P j (s.leaveDueList i))
    (hjoin : ∀ w n due next, s.Armed i w → w.defn.contract.start = .interval n → w.dyn.due = some due →
      P j ((s.leaveDueList i).joinDueList i next)) : P j (s.expire i l) := by
  unfold State.expire
  split
  · rename_i w hs hw
    split
    · rename_i n due hstart hdue
      dsimp only
      generalize (if l = .late then s.now + intervalUnits n else due + intervalUnits n) = next
      have hu := hjoin w n due next ⟨hs, hw⟩ hstart hdue
      have hau : ((s.leaveDueList i).joinDueList i next).Armed i { w with dyn := { w.dyn with due := some next } } :=
        ⟨by simp [hs], by simp [hw]⟩
      split
      · split
        · exact K.countOverrun hu hau
        · exact hu
      · rename_i w' hw'
        split at hw'
        · rename_i hl
          rw [if_pos hl]
          exact K.startRequest (K.countOverrun hu hau) ⟨by simp [hs], hw'⟩
        · rename_i hl
          rw [if_neg hl]
          exact K.startRequest hu ⟨hau.state, hw'⟩
    · rename_i hno
      exact hleave fun w' n due ha hst hd => hno n due ((Option.some.inj (hw.symm.trans ha.watch)) ▸ hst)
        ((Option.some.inj (hw.symm.trans ha.watch)) ▸ hd)
  · rename_i hno
    exact hleave fun w' n due ha _ _ => hno w' ha.state ha.watch

end

end Sys2Proof.Machine

/-! ### Steps -/

namespace Sys2Proof.Machine

/-- What a step is made of, each part with what is known where a step does it. -/
structure Kept {ι : Type} (P : ι → State → Prop) : Prop extends StartsKept P where
  core : ∀ {j s t}, t.core = s.core → P j s → P j t
  engines : ∀ {j s} {v : Vector Engine 4}, (∀ e : EngineIndex, (s.engine e).GoesOnAs v[e]) → P j s → P j { s with engines := v }
  line : ∀ {j s} l v, ((s.line l).Ok → v.Ok) → P j s → P j (s.setLine l v)
  setHold : ∀ {j s} p, P j s → P j (s.setHold p true)
  releaseHold : ∀ p before, (∀ c, Keeps P (before c)) → Keeps P fun s => s.releaseHold p before
  expire : ∀ {j s i l}, P j s → s.lateness i = some l → P j (s.expire i l)
  setLateness : ∀ {j s} i l, s.isHeld = true → P j s → P j (s.setLateness i l)
  removeMember : ∀ p i, Keeps P fun s => s.removeMember p i
  resetAttention : ∀ p, Keeps P fun s => s.setAttention p Attention.afterReset
  create : ∀ {j s i p b c k}, P j s → blockCreation b = some (c, k) → (s.entry i).state = .free →
    P j (s.setEntry i ⟨.defined, (s.entry i).generation, .none, some (Watch.created p c k)⟩)
  modify : ∀ {j s i w b c}, P j s → s.Carries i w → blockContract b = some c → P j (modifyWatchAt s c i w).1
  writeBank : ∀ {j s i w b k}, P j s → s.Carries i w → decodeBank b portLimits = some k → P j (writeBankAt s k i w).1
  swapBank : ∀ {j s i w}, P j s → s.Carries i w → P j (swapBankAt s i w).1
  arm : ∀ {j s i w} delay, P j s → s.Carries i w → P j (armAt s delay i w).1
  disarm : ∀ {j s i w}, P j s → s.Carries i w → P j (disarmAt s i w).1
  retire : ∀ {j s i w}, P j s → s.Carries i w → P j (retireAt s i w).1
  retireOwned : ∀ p i, Keeps P fun s => State.retireOwned p s i
  resetOverruns : ∀ i, Keeps P fun s => s.updateWatch i fun w => { w with dyn := { w.dyn with overruns := 0 } }
  appendCheck : ∀ {j s} c, (s.converter c).queue.length < Config.queueCapacity → P j s → P j (s.appendCheck c)
  takeNext : ∀ {j s} c, ((s.converter c).state = .warmup ∨ (s.converter c).state = .idle ∨
    ∃ r, (s.converter c).current = some r ∧ (r.subscribers = [] ∨ r.isCheck = true)) → P j s → P j (s.takeNext c)
  beginConversion : ∀ {j s} c, (s.converter c).state = .settling → P j s →
    P j (s.setConverter c (s.converter c).beginConversion)
  takeDelivery : ∀ source, Keeps P fun s => s.takeDelivery source
  powerOn : ∀ j, P j (State.powerOn resetPins)
  inReset : Keeps P State.inReset

variable {ι : Type} {P : ι → State → Prop}

/-- A release of a hold claim is kept where its claims are, each on its own. -/
theorem StartsKept.releaseHold (K : StartsKept P) (hhold : ∀ p, Keeps P fun s => s.setHold p false)
    (hsettle : Keeps P State.settleLateness) (hexpire : ∀ {j s i l}, P j s → s.lateness i = some l → P j (s.expire i l))
    (p : Port) (before : Claim → State → State) (hb : ∀ c, Keeps P (before c)) : Keeps P fun s => s.releaseHold p before := by
  intro j s hP
  have hwork : Keeps P fun s => s.resumeWork before := by
    intro j s hP
    refine Keeps.foldl (fun i j s hP => K.serviceHeld i j _ (hb _ j s hP)) _ j _ ?_
    refine Keeps.foldl (fun i j s hP => ?_) _ j _ (hsettle j s hP)
    show P j (State.resumeExpiry before s i)
    have hP' := hb (.expiry i) j s hP
    unfold State.resumeExpiry
    dsimp only
    split
    · exact hexpire hP' ‹_›
    · exact hexpire hP' ‹_›
    · exact hP'
  show P j (s.releaseHold p before)
  unfold State.releaseHold
  dsimp only
  split
  · exact hwork j _ (hhold p j s hP)
  · exact hhold p j s hP

variable (K : Kept P)
include K

/-! Time, ports and pins. -/

theorem Kept.setPort (p : Port) (v : PortState) : Keeps P fun s => s.setPort p v :=
  fun _ s hP => K.core (State.core_setPort s p v) hP

theorem Kept.elapse (n : Nat) : Keeps P fun s => s.elapse n := by
  intro j s hP
  have hE : P j { s with engines := mapEngines (Engine.elapse n) s.engines } :=
    K.engines (fun e => (mapEngines_get (Engine.elapse n) s.engines e).symm ▸ Engine.goesOnAs_elapse _ n) hP
  exact K.core (s := { s with engines := mapEngines (Engine.elapse n) s.engines }) (t := s.elapse n) rfl hE

theorem Kept.runTo {j : ι} {s s' : State} {left : Option Nat} (h : s.runTo left = some s') (hP : P j s) : P j s' := by
  unfold State.runTo at h
  split at h
  · cases h
  · split at h
    · cases h
      exact K.elapse _ j s hP
    · cases h

theorem Kept.dwell (n : Nat) : Keeps P fun s => s.dwell n := fun j s hP => K.elapse _ j s hP

theorem Kept.setEngine {j : ι} {s : State} {e : EngineIndex} {v : Engine} (h : (s.engine e).GoesOnAs v) (hP : P j s) :
    P j (s.setEngine e v) := by
  refine K.engines (v := s.engines.set e v) (fun f => ?_) hP
  have hf : (s.engines.set e v)[f] = if e = f then v else s.engine f := State.engine_setEngine s e f v
  rw [hf]
  split
  · rename_i he
    exact he ▸ h
  · exact .refl _

theorem Kept.setDin (n : TimingInput) (v : DinContext) : Keeps P fun s => s.setDin n v :=
  fun _ s hP => K.core (s := s) (t := s.setDin n v) rfl hP

theorem Kept.dinEdge (n : TimingInput) (level : Level) : Keeps P fun s => s.dinEdge n level := by
  intro j s hP
  exact K.engines (s := s.setDin n _)
    (fun e => (mapEngines_get (Engine.see n level) s.engines e).symm ▸ Engine.goesOnAs_see _ n level) (K.setDin n _ j s hP)

theorem Kept.filterDin (n : TimingInput) : Keeps P fun s => s.filterDin n := by
  intro j s hP
  show P j (s.filterDin n)
  unfold State.filterDin
  dsimp only
  split
  · exact K.dinEdge n _ j s hP
  · exact hP

theorem Kept.pinDin (n : TimingInput) (level : Level) : Keeps P fun s => s.pinDin n level := by
  intro j s hP
  show P j (s.pinDin n level)
  unfold State.pinDin
  split
  · exact hP
  · exact K.setDin n _ j _ (K.filterDin n j s hP)

/-! Trigger lines. -/

theorem Kept.fanOut {j : ι} {s : State} {l : TrgLine} {k n : Nat} (hP : P j s)
    (h : (s.line l).Ok → (s.line l).waiting = true → k + n < 64) : P j (s.fanOut l k n) := by
  have hs : (((allEntries.drop k).take n).foldl (State.fanOutTo l) s).line l = s.line l :=
    State.line_eq_of_surroundings (State.surroundings_fanOutTo_foldl s l _) l
  refine K.line l _ (fun hok => ?_) (Keeps.foldl (K.fanOutTo l) _ j s hP)
  rw [hs] at hok ⊢
  refine ⟨fun hw => by simp [h hok hw], hok.2.1, fun m hm => ?_⟩
  simp only [Option.ite_none_right_eq_some, Option.some.injEq] at hm
  omega

theorem Kept.takeEdge {j : ι} {s : State} {l : TrgLine} (hP : P j s) (hw : (s.line l).Ok → (s.line l).waiting = false)
    (n : Nat) : P j (s.takeEdge l n) := by
  unfold State.takeEdge
  dsimp only
  split
  · exact K.fanOut hP fun hok h => absurd h (by simp [hw hok])
  · rename_i hmode hsub
    refine K.fanOut (K.line l _ (fun hok => ⟨hok.1, by simp [hmode], hok.2.2⟩) hP) fun hok h => ?_
    simp only [State.line_setLine, if_true] at hok h
    exact absurd h (by simp [hw ⟨hok.1, by simp [hmode, hsub], hok.2.2⟩])
  · exact hP

/-- An edge that waits is taken once no edge waits any more. -/
theorem Kept.takeWaiting (l : TrgLine) (n : Nat) : Keeps P fun s => s.takeWaiting l n := by
  intro j s hP
  show P j (s.takeWaiting l n)
  unfold State.takeWaiting
  split
  · have hl := K.line l { s.line l with waiting := false } (fun hok => ⟨nofun, hok.2⟩) hP
    exact K.takeEdge hl (by simp) n
  · exact hP

theorem Kept.goOn (l : TrgLine) (n : Nat) : Keeps P fun s => s.goOn l n := by
  intro j s hP
  show P j (s.goOn l n)
  unfold State.goOn
  split
  · exact K.takeWaiting l n j s hP
  · rename_i k _
    split
    · rename_i hk
      exact K.fanOut hP fun _ _ => hk
    · by_cases hw : (s.line l).waiting = true
      · have hs : (((allEntries.drop k).take n).foldl (State.fanOutTo l) s).line l = s.line l :=
          State.line_eq_of_surroundings (State.surroundings_fanOutTo_foldl s l _) l
        unfold State.takeWaiting
        have hw' : ((s.fanOut l k n).line l).waiting = true := by simp [State.fanOut, hs, hw]
        rw [if_pos hw']
        refine K.takeEdge ?_ (by simp) _
        unfold State.fanOut
        rw [State.setLine_setLine]
        refine K.line l _ (fun hok => ⟨fun h => ?_, ?_⟩) (Keeps.foldl (K.fanOutTo l) _ j s hP)
        · cases h
        · rw [hs] at hok
          simp only [State.line_setLine, if_true, hs]
          refine ⟨hok.2.1, fun m hm => ?_⟩
          simp only [Option.ite_none_right_eq_some, Option.some.injEq] at hm
          omega
      · exact K.takeWaiting l _ j _ (K.fanOut hP fun _ h => absurd h hw)

theorem Kept.trgEdge (l : TrgLine) (n : Nat) : Keeps P fun s => s.trgEdge l n := by
  intro j s hP
  show P j (s.trgEdge l n)
  unfold State.trgEdge
  dsimp only
  split
  · split
    · rename_i hf
      refine K.line l _ (fun hok => ⟨fun _ => ?_, hok.2⟩) hP
      exact Option.isSome_iff_ne_none.mp hf
    · rename_i hf
      have hnone : (s.line l).fanOut = none := by simpa using hf
      refine K.takeEdge (K.line l _ ?_ hP) (fun hok => ?_) n
      · exact fun hok => hok
      simp only [State.line_setLine, if_true] at hok ⊢
      exact Bool.eq_false_iff.mpr fun h => hok.1 h hnone
  · exact K.line l _ (fun hok => hok) hP


theorem Kept.filterTrg (l : TrgLine) (n : Nat) : Keeps P fun s => s.filterTrg l n := by
  intro j s hP
  show P j (s.filterTrg l n)
  unfold State.filterTrg
  dsimp only
  split
  · exact K.trgEdge l n j s hP
  · exact hP

theorem Kept.pinTrg (l : TrgLine) (level : Level) (n : Nat) : Keeps P fun s => s.pinTrg l level n := by
  intro j s hP
  show P j (s.pinTrg l level n)
  unfold State.pinTrg
  split
  · exact hP
  · exact K.line l _ (fun hok => hok) (K.filterTrg l n j s hP)

/-! A command at its window. -/

theorem Kept.endTransaction (p : Port) : Keeps P fun s => s.endTransaction p := fun j s hP => K.setPort p _ j s hP

theorem Kept.answer (p : Port) (status : Status) (data : List Byte) : Keeps P fun s => s.answer p status data := by
  intro j s hP
  show P j (s.answer p status data)
  unfold State.answer
  split
  · exact K.setPort p _ j s hP
  · exact hP

theorem Kept.reply (p : Port) (r : Reply) : Keeps P fun s => s.reply p r := by
  intro j s hP
  cases r with
  | ok data => exact K.answer p .ok data j s hP
  | refuse status => exact K.answer p status [] j s hP
  | later => exact hP

theorem Kept.ownTransactions (p : Port) (own : List OwnTransaction) : Keeps P fun s => s.ownTransactions p own := by
  refine Keeps.foldl (fun o j s hP => ?_) own
  cases o with
  | write =>
    show P j (s.collide p)
    unfold State.collide
    split
    · simp only [State.startTransaction, State.clockByte, State.endTransaction, State.setBus, State.drive, State.setWindow,
        State.port_setPort, State.setPort_setPort]
      exact K.setPort p _ j s hP
    · exact hP
  | read n =>
    simp only [State.ownTransaction, State.beginRead, State.readMore, State.startTransaction, State.clockByte,
      State.endTransaction, State.setBus, State.drive, State.port_setPort, State.setPort_setPort]
    exact K.setPort p _ j s hP

/-- A command is kept where its block is. -/
theorem Kept.command {body : State → State × Reply} (hb : Keeps P fun s => (body s).1) (p : Port) (tag : Byte) (len : Nat)
    (valid : Bool) : Keeps P fun s => s.command p tag len valid body := by
  intro j s hP
  show P j (s.command p tag len valid body)
  unfold State.command
  simp only [State.endTransaction, State.drive, State.setWindow, State.port_setPort, State.setPort_setPort, if_true]
  split
  · exact hP
  · split
    · exact K.setPort p _ j s hP
    · split
      · exact K.reply p _ j _ (hb j _ (K.setPort p _ j s hP))
      · exact K.setPort p _ j s hP

end Sys2Proof.Machine

namespace Sys2Proof.Machine

/-- A command that names a watch is refused with nothing changed, or goes on at the entry that carries the watch (R13, R15). -/
theorem State.withWatch_cases (s : State) (p : Port) (h : Handle) (reads : Bool) (k : EntryIndex → Watch → State × Reply) :
    (s.withWatch p h reads k).1 = s ∨ ∃ i w, s.Carries i w ∧ s.withWatch p h reads k = k i w := by
  unfold State.withWatch
  split
  · exact .inl rfl
  · rename_i hstatus
    split
    · exact .inl rfl
    · rename_i w hw
      split
      · exact .inl rfl
      · refine .inr ⟨_, w, ⟨hw, ?_⟩, rfl⟩
        unfold State.handleStatus at hstatus
        split at hstatus
        · cases hstatus
        · dsimp only at hstatus
          split at hstatus
          · cases hstatus
          · cases hstatus
          · rename_i hfree hretiring
            cases hs : (s.entry (handleEntry h)).state with
            | free => exact absurd hs hfree
            | retiring => exact absurd hs hretiring
            | defined | armed => simp [Entry.addressable, hs]

section
variable {ι : Type} {P : ι → State → Prop} (K : Kept P)
include K

omit K in
theorem Keeps.withWatch {k : State → EntryIndex → Watch → State × Reply}
    (hk : ∀ {j s i w}, P j s → s.Carries i w → P j (k s i w).1) (p : Port) (h : Handle) (reads : Bool) :
    Keeps P fun s => (s.withWatch p h reads (k s)).1 := by
  intro j s hP
  show P j (s.withWatch p h reads (k s)).1
  rcases s.withWatch_cases p h reads (k s) with hs | ⟨i, w, hc, hs⟩
  · rw [hs]
    exact hP
  · rw [hs]
    exact hk hP hc

/-! The blocks of the commands. -/

theorem Kept.createWatchBody (p : Port) (b : DefBlock) : Keeps P fun s => (createWatchBody p b s).1 := by
  intro j s hP
  show P j (Machine.createWatchBody p b s).1
  unfold Machine.createWatchBody
  split
  · exact hP
  · rename_i c k hb
    split
    · exact hP
    · rename_i i hi
      exact K.create hP hb (by simpa using List.find?_some hi)

theorem Kept.modifyWatchBody (p : Port) (h : Handle) (b : DefBlock) : Keeps P fun s => (modifyWatchBody p h b s).1 := by
  intro j s hP
  show P j (Machine.modifyWatchBody p h b s).1
  unfold Machine.modifyWatchBody
  split
  · exact hP
  · rename_i c hb
    exact Keeps.withWatch (P := P) (k := fun s => modifyWatchAt s c) (fun hP hc => K.modify hP hc hb) p h false j s hP

theorem Kept.writeBankBody (p : Port) (h : Handle) (b : BankBlock) : Keeps P fun s => (writeBankBody p h b s).1 := by
  intro j s hP
  show P j (Machine.writeBankBody p h b s).1
  unfold Machine.writeBankBody
  split
  · exact hP
  · rename_i k hb
    exact Keeps.withWatch (P := P) (k := fun s => writeBankAt s k) (fun hP hc => K.writeBank hP hc hb) p h false j s hP

theorem Kept.sampleAt {j : ι} {s : State} {i : EntryIndex} {w : Watch} (hP : P j s) (hc : s.Carries i w) :
    P j (sampleAt s i w).1 := by
  unfold Machine.sampleAt
  split
  · exact hP
  · rename_i hs
    split
    · exact hP
    · exact K.startRequest hP (hc.armed (by simpa using hs))

theorem Kept.readValueAt (p : Port) {j : ι} {s : State} {i : EntryIndex} {w : Watch} (hP : P j s) :
    P j (readValueAt s p i w).1 := by
  unfold Machine.readValueAt
  dsimp only
  split
  · exact K.resetOverruns i j s hP
  · exact hP

theorem Kept.fetchAttentionBody (p : Port) : Keeps P fun s => (fetchAttentionBody p s).1 := by
  intro j s hP
  show P j (Machine.fetchAttentionBody p s).1
  unfold Machine.fetchAttentionBody
  dsimp only
  split
  · exact hP
  · rename_i i _
    refine K.core ?_ (K.removeMember p i j s hP)
    unfold State.removeMember
    cases p <;> rfl

theorem Kept.attentionEnableBody (p : Port) (value : Byte) : Keeps P fun s => (attentionEnableBody p value s).1 := by
  intro j s hP
  show P j (Machine.attentionEnableBody p value s).1
  unfold Machine.attentionEnableBody
  split
  · exact hP
  · exact K.core (State.core_setAttention rfl) hP

theorem Kept.setCorrectionBody (input range : Byte) (gain offset : Half) :
    Keeps P fun s => (setCorrectionBody input range gain offset s).1 := by
  intro j s hP
  show P j (Machine.setCorrectionBody input range gain offset s).1
  unfold Machine.setCorrectionBody
  split
  · exact K.core (s := s) rfl hP
  · exact hP

omit K in
theorem Keeps.readCorrectionBody (input range : Byte) : Keeps P fun s => (readCorrectionBody input range s).1 := by
  intro j s hP
  show P j (Machine.readCorrectionBody input range s).1
  unfold Machine.readCorrectionBody
  split <;> exact hP

theorem Kept.setFilterBody (input setting : Byte) : Keeps P fun s => (setFilterBody input setting s).1 := by
  intro j s hP
  show P j (Machine.setFilterBody input setting s).1
  unfold Machine.setFilterBody
  split
  · split
    · exact hP
    · exact K.setDin _ _ j s hP
  · exact hP

theorem Kept.triggerConfigBody (line mode edge : Byte) : Keeps P fun s => (triggerConfigBody line mode edge s).1 := by
  intro j s hP
  show P j (Machine.triggerConfigBody line mode edge s).1
  unfold Machine.triggerConfigBody
  split
  · rename_i m _ _ _ _
    refine K.line _ _ (fun hok => ⟨hok.1, ?_, hok.2.2⟩) hP
    by_cases hm : m = .once <;> simp [hm]
  · exact hP

theorem Kept.triggerRearmBody (line : Byte) : Keeps P fun s => (triggerRearmBody line s).1 := by
  intro j s hP
  show P j (Machine.triggerRearmBody line s).1
  unfold Machine.triggerRearmBody
  split
  · split
    · rename_i hm
      exact K.line _ _ (fun hok => ⟨hok.1, by simp [hm], hok.2.2⟩) hP
    · exact hP
  · exact hP

theorem Kept.referenceCheckBody (p : Port) : Keeps P fun s => (referenceCheckBody p s).1 := by
  intro j s hP
  show P j (Machine.referenceCheckBody p s).1
  unfold Machine.referenceCheckBody
  split
  · exact hP
  · split
    · exact hP
    · rename_i hfull
      simp only [not_or, not_le] at hfull
      have h0 := K.appendCheck .c0 hfull.1 hP
      have h1 := K.appendCheck .c1 (s := s.appendCheck .c0) hfull.2 h0
      exact K.core (s := (s.appendCheck .c0).appendCheck .c1) rfl h1

theorem Kept.resumeBody {before : Claim → State → State} (hb : ∀ c, Keeps P (before c)) (p : Port)
    (own : List OwnTransaction) : Keeps P fun s => (resumeBody p own before s).1 :=
  fun j s hP => K.releaseHold p before hb j _ (K.ownTransactions p own j s hP)

theorem Kept.portResetBody {before : Claim → State → State} (hb : ∀ c, Keeps P (before c)) (p : Port)
    (own : List OwnTransaction) : Keeps P fun s => (portResetBody p own before s).1 := by
  intro j s hP
  refine K.releaseHold p before hb j _ (hb .release j _ (K.resetAttention p j _ ?_))
  exact Keeps.foldl (fun i j s hP => K.retireOwned p i j _ (hb _ j s hP)) allEntries j _ (K.ownTransactions p own j s hP)

omit K in
theorem Keeps.nothingBefore (c : Claim) : Keeps P (nothingBefore c) := fun _ _ hP => hP

/-! The commands. -/

theorem Kept.runCommand {i : Instr} {j : ι} {s t : State} (h : runCommand i s = .next t) (hP : P j s) : P j t := by
  have hcmd : ∀ {p tag len valid body}, Keeps P (fun s => (body s).1) → P j (s.command p tag len valid body) :=
    fun hb => K.command hb _ _ _ _ j s hP
  have hsame : ∀ f : State → Reply, Keeps P fun s => ((s, f s) : State × Reply).1 := fun _ _ _ hP => hP
  cases i <;> cases h
  case identify => exact hcmd (hsame _)
  case createWatch => exact hcmd (K.createWatchBody _ _)
  case modifyWatch => exact hcmd (K.modifyWatchBody _ _ _)
  case writeBank => exact hcmd (K.writeBankBody _ _ _)
  case swapBank => exact hcmd (Keeps.withWatch (P := P) (k := swapBankAt) K.swapBank _ _ _)
  case arm d => exact hcmd (Keeps.withWatch (P := P) (k := fun s => armAt s d) (K.arm d) _ _ _)
  case disarm => exact hcmd (Keeps.withWatch (P := P) (k := disarmAt) K.disarm _ _ _)
  case retire => exact hcmd (Keeps.withWatch (P := P) (k := retireAt) K.retire _ _ _)
  case sample => exact hcmd (Keeps.withWatch (P := P) (k := Machine.sampleAt) K.sampleAt _ _ _)
  case readWatch => exact hcmd (Keeps.withWatch (P := P) (k := readWatchAt) (fun hP _ => hP) _ _ _)
  case readValue p _ _ => exact hcmd (Keeps.withWatch (P := P) (k := fun s => Machine.readValueAt s p) (fun hP _ => K.readValueAt p hP) _ _ _)
  case listWatches => exact hcmd (hsame _)
  case fetchAttention => exact hcmd (K.fetchAttentionBody _)
  case attentionEnable => exact hcmd (K.attentionEnableBody _ _)
  case setCorrection => exact hcmd (K.setCorrectionBody _ _ _ _)
  case readCorrection => exact hcmd (Keeps.readCorrectionBody _ _)
  case setFilter => exact hcmd (K.setFilterBody _ _)
  case readInputs => exact hcmd (hsame _)
  case triggerConfig => exact hcmd (K.triggerConfigBody _ _ _)
  case triggerRearm => exact hcmd (K.triggerRearmBody _)
  case hold p _ => exact hcmd fun _ _ hP => K.setHold p hP
  case resume => exact hcmd (K.resumeBody Keeps.nothingBefore _ _)
  case referenceCheck => exact hcmd (K.referenceCheckBody _)
  case readConverters => exact hcmd (hsame _)
  case portReset => exact hcmd (K.portResetBody Keeps.nothingBefore _ _)
  all_goals exact hP

/-! Transactions. -/

theorem Kept.judgeFrame {p : Port} {frame : List Byte} {j : ι} {s t : State} (h : s.judgeFrame p frame = .next t)
    (hP : P j s) : P j t := by
  have hanswer : ∀ status, P j (s.answerFrame p frame status) := fun _ => K.setPort p _ j _ (K.setPort p _ j s hP)
  unfold State.judgeFrame at h
  split at h
  case h_1 => cases h; exact hanswer _
  case h_2 => cases h; exact hanswer _
  case h_3 => cases h; exact hanswer _
  case h_4 =>
    split at h
    · rename_i hrun
      cases h
      exact K.setPort p _ j _ (K.setPort p _ j _ (K.runCommand hrun hP))
    · rename_i o hrun
      exact absurd h (hrun t)

theorem Kept.receiveBytes {p : Port} {held bytes : List Byte} {j : ι} {s t : State}
    (h : s.receiveBytes p held bytes = .next t) (hP : P j s) : P j t := by
  unfold State.receiveBytes at h
  dsimp only at h
  split at h
  · cases h
    exact K.setPort p _ j s hP
  · split at h
    · exact K.judgeFrame h hP
    · cases h
      exact K.setPort p _ j s hP

theorem Kept.feed {p : Port} {bytes : List Byte} {j : ι} {s t : State} (h : s.feed p bytes = .next t) (hP : P j s) :
    P j t := by
  unfold State.feed at h
  split at h
  case h_1 => cases h; exact hP
  case h_2 => cases h; exact K.setPort p _ j _ (K.setPort p _ j s hP)
  case h_3 => exact K.receiveBytes h (K.setPort p _ j s hP)
  case h_4 => exact K.receiveBytes h hP
  case h_5 => cases h; exact hP

theorem Kept.readMore (p : Port) (found : CommandWindow) (sent n : Nat) : Keeps P fun s => s.readMore p found sent n :=
  fun j s hP => K.setPort p _ j _ (K.setPort p _ j s hP)

theorem Kept.startTransaction (p : Port) : Keeps P fun s => s.startTransaction p :=
  fun j s hP => K.setPort p _ j _ (K.setPort p _ j s hP)

theorem Kept.beginRead (p : Port) : Keeps P fun s => s.beginRead p :=
  fun j s hP => K.setPort p _ j _ (K.setPort p _ j _ (K.startTransaction p j s hP))

theorem Kept.openTransaction {p : Port} {b : Byte} {bytes : List Byte} {j : ι} {s t : State}
    (h : s.openTransaction p b bytes = .next t) (hP : P j s) : P j t := by
  unfold State.openTransaction at h
  split at h
  · split at h
    · rename_i hfeed
      cases h
      exact K.setPort p _ j _ (K.feed hfeed (K.setPort p _ j _ (K.startTransaction p j s hP)))
    · rename_i hfeed
      exact absurd h (hfeed t)
  · split at h
    · cases h
      exact K.readMore p _ _ _ j _ (K.beginRead p j s hP)
    · cases h
      have hs := K.startTransaction p j s hP
      unfold State.foreignTransaction
      cases p
      · exact K.setPort .a _ j _ (K.setPort .a _ j _ hs)
      · exact K.setPort .b _ j _ hs

theorem Kept.continueTransaction {p : Port} {bytes : List Byte} {j : ι} {s t : State}
    (h : s.continueTransaction p bytes = .next t) (hP : P j s) : P j t := by
  have hc : P j (s.clockByte p) := K.setPort p _ j s hP
  unfold State.continueTransaction at h
  dsimp only at h
  split at h
  · cases h
    exact hc
  · cases h
    exact K.readMore p _ _ _ j _ hc
  · split at h
    · rename_i hfeed
      cases h
      exact K.setPort p _ j _ (K.feed hfeed hc)
    · rename_i hfeed
      exact absurd h (hfeed t)

theorem Kept.requestFrame {p : Port} {opening : Option Byte} {bytes : List Byte} {j : ι} {s t : State}
    (h : execRequestFrame p opening bytes s = .next t) (hP : P j s) : P j t := by
  unfold execRequestFrame at h
  split at h
  · cases h
    exact hP
  · split at h
    · exact K.openTransaction h hP
    · cases h
      cases p
      · exact hP
      · exact K.setPort .b _ j s hP
    · exact K.continueTransaction h hP

theorem Kept.responseRead {p : Port} {opening : Byte} {count : ReadExtent} {j : ι} {s t : State}
    (h : execResponseRead p opening count s = .next t) (hP : P j s) : P j t := by
  unfold execResponseRead at h
  split at h
  · cases h
    exact hP
  · split at h
    · rename_i hopen
      cases h
      split
      · exact K.endTransaction p j _ (K.openTransaction hopen hP)
      · exact K.openTransaction hopen hP
    · rename_i hopen
      exact absurd h (hopen t)

end

end Sys2Proof.Machine

namespace Sys2Proof.Machine

/-- The NORMAL request that a converter is converting is its current one. -/
theorem Converter.normalCurrent_eq_some {v : Converter} {r : Request} {n : AnalogInput} (h : v.normalCurrent = some (r, n)) :
    v.current = some r ∧ r.source = .ain n ∧ v.state = .converting ∧ v.delivering = none := by
  unfold Converter.normalCurrent at h
  split at h
  · rename_i hs
    split at h
    · rename_i r' hr
      split at h
      · rename_i n' hn
        cases h
        exact ⟨hr, hn, hs⟩
      · cases h
    · cases h
  · cases h

section
variable {ι : Type} {P : ι → State → Prop} (K : Kept P)
include K

/-! Events. -/

theorem Kept.warmupExpiry {c : ConverterId} {j : ι} {s t : State} (h : execWarmupExpiry c s = .next t) (hP : P j s) :
    P j t := by
  cases h
  split
  · exact hP
  · rename_i hguard
    simp only [not_or, not_not] at hguard
    split
    · exact hP
    · rename_i s' hs'
      obtain ⟨n, -, -, rfl⟩ := State.runTo_eq_some.mp hs'
      exact K.takeNext c (.inl (by simpa using hguard.2)) (K.elapse n j s hP)

theorem Kept.startIdle (c : ConverterId) : Keeps P fun s => s.startIdle c := by
  intro j s hP
  show P j (s.startIdle c)
  unfold State.startIdle
  split
  · rename_i hidle
    exact K.takeNext c (.inr (.inl hidle)) hP
  · exact hP

theorem Kept.settleExpiry {c : ConverterId} {j : ι} {s t : State} (h : execSettleExpiry c s = .next t) (hP : P j s) :
    P j t := by
  cases h
  split
  · exact hP
  · rename_i hguard
    simp only [not_or, not_not] at hguard
    split
    · exact hP
    · rename_i s' hs'
      obtain ⟨n, -, -, rfl⟩ := State.runTo_eq_some.mp hs'
      exact K.beginConversion c (by simpa using hguard.2) (K.elapse n j s hP)

theorem Kept.conversionCompletion {c : ConverterId} {level : Int} {j : ι} {s t : State}
    (h : execConversionCompletion c level s = .next t) (hP : P j s) : P j t := by
  cases h
  split
  · exact hP
  · split
    · exact hP
    · rename_i r input hcurrent
      split
      · exact hP
      · rename_i s' hs'
        obtain ⟨n, -, -, rfl⟩ := State.runTo_eq_some.mp hs'
        have hr := (Converter.normalCurrent_eq_some hcurrent).1
        have hdone := fun o => K.core (t := (s.elapse n).setConverter c { (s.elapse n).converter c with delivering := some o })
          (State.core_setConverter rfl) (K.elapse n j s hP)
        unfold State.complete
        dsimp only
        split
        · rename_i hempty
          exact K.takeNext c (.inr (.inr ⟨r, by simpa using hr, .inl hempty⟩)) (hdone _)
        · exact hdone _

theorem Kept.endCheck : Keeps P State.endCheck := by
  intro j s hP
  unfold State.endCheck
  split
  · exact hP
  · split
    · exact K.answer _ _ _ j _ (K.core (s := s) rfl hP)
    · exact hP

theorem Kept.checkCompletion {c : ConverterId} {level : Int} {j : ι} {s t : State}
    (h : execCheckCompletion c level s = .next t) (hP : P j s) : P j t := by
  cases h
  split
  · exact hP
  · rename_i hguard
    split
    · exact hP
    · rename_i s' hs'
      obtain ⟨n, -, -, rfl⟩ := State.runTo_eq_some.mp hs'
      simp only [not_or, Converter.checkCurrent, Bool.not_eq_false, Bool.and_eq_true, decide_eq_true_eq, Option.any_eq_true]
        at hguard
      obtain ⟨-, -, r, hr, hcheck⟩ := hguard
      refine K.endCheck j _ (K.takeNext c (.inr (.inr ⟨r, ?_, .inr hcheck⟩)) (K.core (s := s.elapse n) ?_ (K.elapse n j s hP)))
      · cases c <;> exact hr
      · cases c <;> rfl

theorem Kept.limitExpiry {e : EngineIndex} {j : ι} {s t : State} (h : execLimitExpiry e s = .next t) (hP : P j s) :
    P j t := by
  cases h
  split
  · exact hP
  · rename_i hguard
    split
    · exact hP
    · rename_i s' hs'
      obtain ⟨n, -, -, rfl⟩ := State.runTo_eq_some.mp hs'
      refine K.setEngine (Engine.goesOnAs_completed ?_ _ _) (K.elapse n j s hP)
      intro hfree
      simp only [State.elapse_engine, Engine.elapse_state] at hfree
      simp [Engine.limited, hfree] at hguard

theorem Kept.gateExpiry {e : EngineIndex} {j : ι} {s t : State} (h : execGateExpiry e s = .next t) (hP : P j s) :
    P j t := by
  cases h
  split
  · exact hP
  · rename_i hguard
    split
    · exact hP
    · rename_i s' hs'
      obtain ⟨n, -, -, rfl⟩ := State.runTo_eq_some.mp hs'
      refine K.setEngine (Engine.goesOnAs_completed ?_ _ _) (K.elapse n j s hP)
      simp only [not_or, not_not] at hguard
      simp [hguard.2]

theorem Kept.intervalExpiry {j : ι} {s t : State} (h : execIntervalExpiry s = .next t) (hP : P j s) : P j t := by
  cases h
  split
  · exact hP
  · split
    · rename_i m rest s' hlist hs'
      obtain ⟨n, -, -, rfl⟩ := State.runTo_eq_some.mp hs'
      exact K.expire (K.elapse n j s hP) (by simp [State.lateness, hlist])
    · exact hP

theorem Kept.becomePastDue {i : EntryIndex} {j : ι} {s t : State} (h : execBecomePastDue i s = .next t) (hP : P j s) :
    P j t := by
  cases h
  split
  · exact hP
  · split
    · exact hP
    · rename_i s' hs'
      obtain ⟨n, hleft, -, rfl⟩ := State.runTo_eq_some.mp hs'
      refine K.setLateness i _ ?_ (K.elapse n j s hP)
      obtain ⟨m, -, hm⟩ := Option.bind_eq_some_iff.mp hleft
      unfold State.pastDueLeft at hm
      split at hm
      · simp_all
      · cases hm

theorem Kept.becomeLate {i : EntryIndex} {j : ι} {s t : State} (h : execBecomeLate i s = .next t) (hP : P j s) : P j t := by
  cases h
  split
  · exact hP
  · split
    · exact hP
    · rename_i s' hs'
      obtain ⟨n, hleft, -, rfl⟩ := State.runTo_eq_some.mp hs'
      refine K.setLateness i _ ?_ (K.elapse n j s hP)
      obtain ⟨m, -, hm⟩ := Option.bind_eq_some_iff.mp hleft
      unfold State.lateLeft at hm
      split at hm
      · simp_all
      · cases hm

theorem Kept.dinTransition {n : TimingInput} {level : Level} {held : Nat} {j : ι} {s t : State}
    (h : execDinTransition n level held s = .next t) (hP : P j s) : P j t := by
  cases h
  split
  · exact hP
  · exact K.filterDin n j _ (K.dwell held j _ (K.pinDin n level j s hP))

theorem Kept.trgTransition {l : TrgLine} {level : Level} {held examined : Nat} {j : ι} {s t : State}
    (h : execTrgTransition l level held examined s = .next t) (hP : P j s) : P j t := by
  cases h
  split
  · exact hP
  · exact K.filterTrg l examined j _ (K.dwell held j _ (K.pinTrg l level examined j s hP))

theorem Kept.waitingEdge {l : TrgLine} {n : Nat} {j : ι} {s t : State} (h : execWaitingEdge l n s = .next t) (hP : P j s) :
    P j t := by
  cases h
  split
  · exact hP
  · exact K.goOn l n j s hP

theorem Kept.stallTimeout {j : ι} {s t : State} (h : execStallTimeout s = .next t) (hP : P j s) : P j t := by
  cases h
  split
  · exact hP
  · split
    · exact hP
    · rename_i s' hs'
      exact K.setPort .b _ j _ (K.runTo hs' hP)

theorem Kept.partialFrameDiscard {p : Port} {j : ι} {s t : State} (h : execPartialFrameDiscard p s = .next t) (hP : P j s) :
    P j t := by
  cases h
  split
  · exact hP
  · exact K.endTransaction p j s hP

theorem Kept.runTimed {e : TimedEvent} {j : ι} {s t : State} (h : runTimed e s = .next t) (hP : P j s) : P j t := by
  cases e with
  | trgTransition => exact K.trgTransition h hP
  | waitingEdge => exact K.waitingEdge h hP
  | dinTransition => exact K.dinTransition h hP
  | warmupExpiry => exact K.warmupExpiry h hP
  | settleExpiry => exact K.settleExpiry h hP
  | conversionCompletion => exact K.conversionCompletion h hP
  | checkCompletion => exact K.checkCompletion h hP
  | limitExpiry => exact K.limitExpiry h hP
  | gateExpiry => exact K.gateExpiry h hP
  | intervalExpiry => exact K.intervalExpiry h hP
  | becomePastDue => exact K.becomePastDue h hP
  | becomeLate => exact K.becomeLate h hP
  | stallTimeout => exact K.stallTimeout h hP

/-! What comes between claims. -/

omit K in
theorem Keeps.atOnce {o : State → Host.Outcome State Fault Refusal} (ho : ∀ {j s t}, o s = .next t → P j s → P j t) :
    Keeps P fun s => s.atOnce (o s) := by
  intro j s hP
  show P j (s.atOnce (o s))
  unfold State.atOnce
  split
  · rename_i t ht
    split
    · exact ho ht hP
    · exact hP
  · exact hP

theorem Kept.takeInterjection (p : Port) (e : Interjection) : Keeps P fun s => s.takeInterjection p e := by
  cases e with
  | delivery source => exact K.takeDelivery source
  | requestStart c => exact K.startIdle c
  | timed e => exact Keeps.atOnce (P := P) K.runTimed
  | transaction opening bytes => exact Keeps.atOnce (P := P) K.requestFrame
  | transactionEnd => exact Keeps.atOnce (P := P) K.partialFrameDiscard

theorem Kept.beforeClaim (p : Port) (between : List Between) (c : Claim) : Keeps P (beforeClaim p between c) := by
  refine Keeps.foldl (fun e j s hP => ?_) _
  show P j (State.interject p c s e)
  unfold State.interject
  split
  · exact hP
  · exact K.takeInterjection p e j s hP

/-! Resets. -/

theorem Kept.powerOnReset {pins : PinLevels} {j : ι} {s t : State} (h : execPowerOnReset pins s = .next t) : P j t := by
  cases h
  exact K.core (s := State.powerOn resetPins) rfl (K.powerOn j)

theorem Kept.resetAssertion {j : ι} {s t : State} (h : execResetAssertion s = .next t) (hP : P j s) : P j t := by
  cases h
  split
  · exact hP
  · exact K.inReset j s hP

theorem Kept.resetDeassertion {pins : PinLevels} {j : ι} {s t : State} (h : execResetDeassertion pins s = .next t)
    (hP : P j s) : P j t := by
  cases h
  have hok : ∀ pin, (TrgContext.afterReset pin).Ok := fun pin => ⟨nofun, by simp [TrgContext.afterReset], nofun⟩
  split
  · have h0 := K.line .trg0 (TrgContext.afterReset pins.trg0) (fun _ => hok _) hP
    have h1 := K.line .trg1 (TrgContext.afterReset pins.trg1) (fun _ => hok _) h0
    exact K.core (s := (s.setLine .trg0 _).setLine .trg1 _) rfl h1
  · exact hP

/-! Any command, and a step. -/

theorem Kept.exec {i : Instr} {j : ι} {s t : State} (h : exec i s = .next t) (hP : P j s) : P j t := by
  have hrun : Machine.exec i s = Machine.runCommand i s → P j t := fun he => K.runCommand (he ▸ h) hP
  cases i
  case resume p tag => cases h; exact K.command (K.resumeBody (K.beforeClaim p tag.between) p tag.own) _ _ _ _ j s hP
  case portReset p tag => cases h; exact K.command (K.portResetBody (K.beforeClaim p tag.between) p tag.own) _ _ _ _ j s hP
  case requestFrame => exact K.requestFrame h hP
  case partialFrameDiscard => exact K.partialFrameDiscard h hP
  case collidingWrite p =>
    cases h
    split
    · exact hP
    · exact K.ownTransactions p [.write] j s hP
  case responseRead => exact K.responseRead h hP
  case stallTimeout => exact K.stallTimeout h hP
  case powerOnReset => exact K.powerOnReset h
  case resetAssertion => exact K.resetAssertion h hP
  case becomePastDue => exact K.becomePastDue h hP
  case becomeLate => exact K.becomeLate h hP
  case intervalExpiry => exact K.intervalExpiry h hP
  case trgTransition => exact K.trgTransition h hP
  case waitingEdge => exact K.waitingEdge h hP
  case warmupExpiry => exact K.warmupExpiry h hP
  case requestStart c =>
    cases h
    split
    · exact hP
    · exact K.startIdle c j s hP
  case settleExpiry => exact K.settleExpiry h hP
  case conversionCompletion => exact K.conversionCompletion h hP
  case checkCompletion => exact K.checkCompletion h hP
  case dinTransition => exact K.dinTransition h hP
  case limitExpiry => exact K.limitExpiry h hP
  case gateExpiry => exact K.gateExpiry h hP
  case delivery source =>
    cases h
    split
    · exact hP
    · exact K.takeDelivery source j s hP
  case resetDeassertion => exact K.resetDeassertion h hP
  all_goals exact hrun rfl

/-- A step keeps what the operations that it is made of keep. -/
theorem Kept.step {j : ι} {s t : State} (h : step s = .next t) (hP : P j s) : P j t := by
  unfold Machine.step at h
  split at h
  · unfold idleStep at h
    split at h
    · cases h
      exact hP
    · split at h
      · exact K.exec h (K.core (s := s) rfl hP)
      · cases h
        exact K.elapse 1 j s hP
  · exact K.exec h (K.core (s := s) rfl hP)

end

end Sys2Proof.Machine

/-! ### Invariants of the queues, the engines and the lines

What the waiting queues, the wait list and the trigger lines must meet says nothing of an entry, the due list or an attention set.
For such a statement every operation on watches comes down to a few on the work. -/

namespace Sys2Proof.Machine

/-- A state with all blanked but its waiting queues, engines, wait list and trigger lines. -/
def State.bare (s : State) : State :=
  { State.powerOn resetPins with
    trg0 := s.trg0.core
    trg1 := s.trg1.core
    conv0 := { Converter.afterReset with queue := s.conv0.queue }
    conv1 := { Converter.afterReset with queue := s.conv1.queue }
    engines := s.engines
    waitList := s.waitList }

theorem State.bare_of_core {s t : State} (h : t.core = s.core) : t.bare = s.bare := (congrArg State.bare h :)

section
variable (s : State)

@[simp] theorem State.bare_setEntry (i : EntryIndex) (e : Entry) : (s.setEntry i e).bare = s.bare := rfl

@[simp] theorem State.bare_setAttention (p : Port) (a : Attention) : (s.setAttention p a).bare = s.bare := by cases p <;> rfl

@[simp] theorem State.bare_setHold (p : Port) (b : Bool) : (s.setHold p b).bare = s.bare := by cases p <;> rfl

theorem State.bare_setConverter {c : ConverterId} {v : Converter} (h : v.queue = (s.converter c).queue) :
    (s.setConverter c v).bare = s.bare := by
  cases c <;> simp only [State.bare, State.setConverter] <;> rw [h] <;> rfl

@[simp] theorem State.bare_setActivity (i : EntryIndex) (a : Activity) : (s.setActivity i a).bare = s.bare := rfl

@[simp] theorem State.bare_updateWatch (i : EntryIndex) (f : Watch → Watch) : (s.updateWatch i f).bare = s.bare := by
  unfold State.updateWatch
  split <;> simp

@[simp] theorem State.bare_raise (i : EntryIndex) (cs : CauseSet) : (s.raise i cs).bare = s.bare := by
  unfold State.raise
  split <;> simp [State.addCauses]

@[simp] theorem State.bare_removeMember (p : Port) (i : EntryIndex) : (s.removeMember p i).bare = s.bare := by
  simp [State.removeMember]

@[simp] theorem State.bare_countOverrun (i : EntryIndex) : (s.countOverrun i).bare = s.bare := by simp [State.countOverrun]

@[simp] theorem State.bare_leaveDueList (i : EntryIndex) : (s.leaveDueList i).bare = s.bare := State.bare_updateWatch s i _

@[simp] theorem State.bare_joinDueList (i : EntryIndex) (d : DeviceTime) : (s.joinDueList i d).bare = s.bare :=
  State.bare_updateWatch s i _

@[simp] theorem State.bare_clearHeld (i : EntryIndex) : (s.clearHeld i).bare = s.bare := State.bare_updateWatch s i _

@[simp] theorem State.bare_markConverting (l : List EntryIndex) : (s.markConverting l).bare = s.bare := by
  unfold State.markConverting
  induction l generalizing s with
  | nil => rfl
  | cons i l ih => rw [List.foldl_cons, ih, State.bare_setActivity]

@[simp] theorem State.bare_endOnce (i : EntryIndex) : (s.endOnce i).bare = s.bare := by simp [State.endOnce]

end

/-- What an operation on watches comes down to where a statement says nothing of entries, due list and attention. -/
structure WorkKept (P : State → Prop) : Prop where
  bare : ∀ {s t}, t.bare = s.bare → P s → P t
  engines : ∀ {s} {v : Vector Engine 4}, (∀ e : EngineIndex, (s.engine e).GoesOnAs v[e]) → P s → P { s with engines := v }
  line : ∀ {s} l v, ((s.line l).Ok → v.Ok) → P s → P (s.setLine l v)
  submit : ∀ {s} i n r d, P s → P (s.submit i n r d).1
  unsubscribe : ∀ {s} i, P s → P (s.unsubscribe i)
  takeNext : ∀ {s} c, P s → P (s.takeNext c)
  appendCheck : ∀ {s} c, (s.converter c).queue.length < Config.queueCapacity → P s → P (s.appendCheck c)
  requestEngine : ∀ {s} i m x, P s → P (s.requestEngine i m x)
  releaseEngine : ∀ {s} e, P s → P (s.releaseEngine e)
  leaveWaitList : ∀ {s} i, P s → P (s.leaveWaitList i)
  powerOn : P (State.powerOn resetPins)
  inReset : ∀ {s}, P s → P s.inReset

section
variable {P : State → Prop} (W : WorkKept P)
include W

theorem WorkKept.starts : StartsKept fun _ : Unit => P where
  clearHeld i _ s := W.bare (State.bare_clearHeld s i)
  holdTrigger hP _ _ := W.bare (State.bare_updateWatch _ _ _) hP
  countOverrun hP _ := W.bare (State.bare_countOverrun _ _) hP
  submit hP _ _ _ := W.submit _ _ _ _ hP
  requestEngine hP _ _ _ := W.requestEngine _ _ _ hP

theorem WorkKept.deliver {s : State} (i : EntryIndex) (o : Delivered) (hP : P s) : P (s.deliver i o) := by
  unfold State.deliver
  dsimp only
  split
  · exact W.bare (State.bare_setEntry s i _) hP
  · exact W.bare (State.bare_setEntry s i _) hP
  · rename_i w _ _
    unfold State.deliverArmed
    refine W.starts.completeHeld i () _ ?_
    have hP1 := W.bare (State.bare_raise _ i (w.deliver o s.now).2)
      (W.bare (State.bare_setEntry s i { s.entry i with activity := .none, watch := some (w.deliver o s.now).1 }) hP)
    dsimp only
    split
    · exact W.bare (State.bare_endOnce _ i) hP1
    · exact hP1
  · exact hP

theorem WorkKept.deliverFromEngine {s : State} (e : EngineIndex) (hP : P s) : P (s.deliverFromEngine e) := by
  unfold State.deliverFromEngine
  dsimp only
  split
  · exact W.releaseEngine e (W.deliver _ _ hP)
  · exact hP

theorem WorkKept.takeDelivery {s : State} (source : DeliverySource) (hP : P s) : P (s.takeDelivery source) := by
  cases source with
  | converter c i =>
    show P (s.deliverFromConverter c i)
    unfold State.deliverFromConverter
    dsimp only
    split
    · rename_i r o _ _
      split
      · have hP1 := W.deliver i o (W.bare (State.bare_setConverter s (c := c) (v := { s.converter c with
          current := some { r with subscribers := r.subscribers.filter fun j => decide (j ≠ i) } }) rfl) hP)
        split
        · exact W.takeNext c hP1
        · exact hP1
      · exact hP
    · exact hP
  | engine e => exact W.deliverFromEngine e hP

theorem WorkKept.settleCompletion {s : State} (i : EntryIndex) (hP : P s) : P (s.settleCompletion i) := by
  unfold State.settleCompletion
  split
  · exact hP
  · exact W.deliverFromEngine _ hP

theorem WorkKept.letGo {s : State} (i : EntryIndex) (hP : P s) : P (s.letGo i) := by
  unfold State.letGo State.abandon
  split
  · exact hP
  · exact hP
  · exact W.bare (State.bare_setActivity _ i _) (W.unsubscribe i hP)
  · exact W.bare (State.bare_setActivity _ i _) (W.leaveWaitList i hP)
  · refine W.bare (State.bare_setActivity _ i _) ?_
    split
    · exact hP
    · exact W.releaseEngine _ hP

theorem WorkKept.disarmWatch {s : State} (i : EntryIndex) (hP : P s) : P (s.disarmWatch i) :=
  W.bare (State.bare_setEntry _ i _) (W.letGo i (W.bare (by simp) hP))

theorem WorkKept.retireWatch {s : State} (p : Port) (i : EntryIndex) (hP : P s) : P (s.retireWatch p i) := by
  unfold State.retireWatch
  dsimp only
  split
  · exact W.bare (by simp) hP
  · exact W.bare (State.bare_setEntry _ i _) (W.letGo i (W.bare (by simp) hP))

theorem WorkKept.expire {s : State} (i : EntryIndex) (l : Lateness) (hP : P s) : P (s.expire i l) :=
  W.starts.expire (j := ()) (fun _ => W.bare (State.bare_leaveDueList s i) hP) fun _ _ _ _ _ _ _ => W.bare (by simp) hP

theorem WorkKept.kept : Kept fun _ : Unit => P where
  toStartsKept := W.starts
  core h := W.bare (State.bare_of_core h)
  engines := W.engines
  line := W.line
  setHold p := W.bare (State.bare_setHold _ p _)
  releaseHold := W.starts.releaseHold (fun p _ s => W.bare (State.bare_setHold s p _)) (fun _ s => W.bare (s := s) rfl)
    fun hP _ => W.expire _ _ hP
  expire hP _ := W.expire _ _ hP
  setLateness {_ s} _ _ _ := W.bare (s := s) rfl
  removeMember p i _ s := W.bare (State.bare_removeMember s p i)
  resetAttention p _ s := W.bare (State.bare_setAttention s p _)
  create hP _ _ := W.bare (State.bare_setEntry _ _ _) hP
  modify {_ s i w _ c} hP _ _ := by
    have hw : P (s.setEntry i { s.entry i with watch := some (w.modified c) }) := W.bare (State.bare_setEntry s i _) hP
    have hl : P ((s.setEntry i { s.entry i with watch := some (w.modified c) }).retestLateness i (w.modified c)) := by
      unfold State.retestLateness
      split
      · split
        · exact W.bare (s := s) rfl hP
        · exact hw
      · exact hw
    unfold modifyWatchAt
    dsimp only
    split
    · split
      · exact hl
      · exact hP
    · split
      · exact hP
      · split
        · exact hw
        · exact hP
  writeBank hP _ _ := by
    unfold writeBankAt
    split
    · exact hP
    · split
      · exact W.bare (State.bare_updateWatch _ _ _) hP
      · exact hP
  swapBank hP _ := by
    unfold swapBankAt
    split
    · exact hP
    · split <;> exact W.bare (State.bare_updateWatch _ _ _) hP
  arm {_ s i w} delay hP _ := by
    have hw : P (s.armWatch i w delay) := by
      have hs := W.bare (State.bare_setEntry s i { s.entry i with state := .armed, watch := some w.armed }) hP
      unfold State.armWatch
      dsimp only
      split
      · split
        · exact W.expire i _ (W.bare (State.bare_joinDueList _ i _) hs)
        · exact W.bare (State.bare_joinDueList _ i _) hs
      · exact hs
    unfold armAt
    split
    · exact hP
    · split
      · exact hw
      · split
        · exact hw
        · exact hP
  disarm hP _ := by
    unfold disarmAt
    split
    · exact hP
    · dsimp only
      split
      · exact W.settleCompletion _ hP
      · exact W.disarmWatch _ (W.settleCompletion _ hP)
  retire hP _ := W.retireWatch _ _ (W.settleCompletion _ hP)
  retireOwned p i _ s hP := by
    show P (State.retireOwned p s i)
    unfold State.retireOwned
    split
    · exact W.retireWatch p i (W.settleCompletion i hP)
    · exact hP
  resetOverruns i _ s := W.bare (State.bare_updateWatch s i _)
  appendCheck := W.appendCheck
  takeNext c _ := W.takeNext c
  beginConversion c _ := W.bare (State.bare_setConverter _ rfl)
  takeDelivery source _ _ := W.takeDelivery source
  powerOn _ := W.powerOn
  inReset _ _ := W.inReset

end

end Sys2Proof.Machine

/-! ### The waiting queues (R86, R87) -/

namespace Sys2Proof.Machine

/-- An engine that is released goes to the first timing watch of the wait list, or is FREE with the list empty (R130). -/
theorem State.releaseEngine_cases (s : State) (e : EngineIndex) :
    ((∀ k ∈ s.waitList, (s.entry k).watch.bind Watch.measurement = none) ∧
      s.releaseEngine e = { s with waitList := [] }.setEngine e Engine.freed) ∨
    ∃ passed j rest m x, s.waitList = passed ++ j :: rest ∧
      (∀ k ∈ passed, (s.entry k).watch.bind Watch.measurement = none) ∧
      (s.entry j).watch.bind Watch.measurement = some (m, x) ∧
      s.releaseEngine e = { s with waitList := rest }.assignEngine e j m x := by
  unfold State.releaseEngine
  induction s.waitList with
  | nil => exact .inl ⟨nofun, rfl⟩
  | cons j rest ih =>
    unfold handOver
    split
    · rename_i hj
      rcases ih with ⟨hnone, hs⟩ | ⟨passed, k, rest', m, x, hlist, hnone, hk, hs⟩
      · exact .inl ⟨List.forall_mem_cons.mpr ⟨hj, hnone⟩, hs⟩
      · exact .inr ⟨j :: passed, k, rest', m, x, by simp [hlist], List.forall_mem_cons.mpr ⟨hj, hnone⟩, hk, hs⟩
    · rename_i m x hj
      exact .inr ⟨[], j, rest, m, x, rfl, nofun, hj, rfl⟩

theorem mem_insertIndex {i j : EntryIndex} {l : List EntryIndex} : j ∈ insertIndex i l ↔ j = i ∨ j ∈ l := by
  induction l with
  | nil => simp [insertIndex]
  | cons k l ih =>
    unfold insertIndex
    split
    · simp
    · split
      · rename_i hik
        subst hik
        simp
      · simp only [List.mem_cons, ih]
        tauto

/-- A submission that joins does so at the first request of its input, range and settle (R87 step 1). -/
theorem joinQueue_eq_some {i : EntryIndex} {n : AnalogInput} {r : Fin 4} {d : Nat} {q q' : List Request}
    (h : joinQueue i n r d q = some q') :
    ∃ front x back, q = front ++ x :: back ∧ q' = front ++ { x with subscribers := insertIndex i x.subscribers } :: back ∧
      x.source = .ain n ∧ x.range = r ∧ x.settle = d := by
  induction q generalizing q' with
  | nil => cases h
  | cons a q ih =>
    unfold joinQueue at h
    split at h
    · rename_i ha
      simp only [Request.joinable, Bool.and_eq_true, decide_eq_true_eq] at ha
      cases h
      exact ⟨[], a, q, rfl, rfl, ha.1.1, ha.1.2, ha.2⟩
    · obtain ⟨q1, hq1, rfl⟩ := Option.map_eq_some_iff.mp h
      obtain ⟨front, x, back, rfl, rfl, hx⟩ := ih hq1
      exact ⟨a :: front, x, back, rfl, rfl, hx⟩

theorem QueueOk.join {q q' : List Request} {i : EntryIndex} {n : AnalogInput} {r : Fin 4} {d : Nat} (hq : QueueOk q)
    (h : joinQueue i n r d q = some q') : QueueOk q' := by
  obtain ⟨front, x, back, rfl, rfl, -⟩ := joinQueue_eq_some h
  obtain ⟨hbounded, hdistinct, hsubscribed⟩ := hq
  refine ⟨by simpa using hbounded, ?_, fun y hy hc => ?_⟩
  · simp only [List.pairwise_append, List.pairwise_cons, List.forall_mem_cons] at hdistinct ⊢
    exact hdistinct
  · simp only [List.mem_append, List.mem_cons] at hy
    rcases hy with hy | rfl | hy
    · exact hsubscribed y (by simp [hy]) hc
    · exact List.ne_nil_of_mem (mem_insertIndex.mpr (.inl rfl))
    · exact hsubscribed y (by simp [hy]) hc

/-- A request goes to the back of a queue that has room where it clashes with none that waits. -/
theorem QueueOk.append {q : List Request} {x : Request} (hq : QueueOk q) (hlen : q.length < Config.queueCapacity)
    (hx : ∀ y ∈ q, ¬ y.clashes x) (hs : x.isCheck = false → x.subscribers ≠ []) : QueueOk (q ++ [x]) := by
  obtain ⟨hbounded, hdistinct, hsubscribed⟩ := hq
  refine ⟨by simpa using hlen, ?_, fun y hy hc => ?_⟩
  · simpa [List.pairwise_append, hdistinct] using hx
  · rcases List.mem_append.mp hy with hy | hy
    · exact hsubscribed y hy hc
    · rw [List.mem_singleton.mp hy] at hc ⊢
      exact hs hc

theorem QueueOk.of_cons {x : Request} {q : List Request} (hq : QueueOk (x :: q)) : QueueOk q :=
  ⟨Nat.le_of_succ_le hq.bounded, (List.pairwise_cons.mp hq.distinct).2, fun y hy => hq.subscribed y (by simp [hy])⟩

theorem QueueOk.nil : QueueOk [] := ⟨Nat.zero_le _, .nil, nofun⟩

/-- A watch that leaves a queue takes with it the requests that it alone subscribed to (R90). -/
theorem QueueOk.without {q : List Request} (hq : QueueOk q) (i : EntryIndex) : QueueOk (q.filterMap (Request.without i)) := by
  rw [filterMap_without]
  unfold queueWithout
  obtain ⟨hbounded, hdistinct, hsubscribed⟩ := hq
  refine ⟨?_, ?_, ?_⟩
  · rw [List.length_map]
    exact (List.length_filter_le _ _).trans hbounded
  · exact (List.pairwise_map.mpr (hdistinct.filter _))
  · intro y hy hc
    obtain ⟨x, hx, rfl⟩ := List.mem_map.mp hy
    obtain ⟨hxq, hstays⟩ := List.mem_filter.mp hx
    have hne := hsubscribed x hxq hc
    obtain ⟨j, hj, hji⟩ : ∃ j ∈ x.subscribers, j ≠ i := by
      simpa [Request.stays, hne] using hstays
    exact List.ne_nil_of_mem (List.mem_filter.mpr ⟨hj, by simpa using hji⟩)

theorem State.queuesOk_iff {s : State} : s.QueuesOk ↔ ∀ c, QueueOk (s.converter c).queue := by
  constructor
  · rintro ⟨h0, h1⟩ c
    cases c
    exacts [h0, h1]
  · exact fun h => ⟨h .c0, h .c1⟩

theorem State.QueuesOk.bare {s t : State} (h : t.bare = s.bare) (hq : s.QueuesOk) : t.QueuesOk := by
  have ht : t.bare.QueuesOk := h ▸ (hq : s.bare.QueuesOk)
  exact ht

theorem State.QueuesOk.setConverter {s : State} {c : ConverterId} {v : Converter} (hq : s.QueuesOk) (hv : QueueOk v.queue) :
    (s.setConverter c v).QueuesOk := by
  rw [State.queuesOk_iff] at hq ⊢
  intro d
  rw [State.converter_setConverter]
  split
  · exact hv
  · exact hq d

theorem queuesWorkKept : WorkKept State.QueuesOk where
  bare := State.QueuesOk.bare
  engines _ hq := hq
  line l _ _ hq := by cases l <;> exact hq
  submit {s} i n r d hq := by
    have hc := State.queuesOk_iff.mp hq (servingConverter n)
    unfold State.submit
    dsimp only
    split
    · rename_i hj
      exact (hq.setConverter (hc.join hj)).bare (State.bare_setActivity _ _ _)
    · rename_i hj
      rw [joinQueue_eq_none] at hj
      split
      · rename_i hlen
        refine (hq.setConverter (hc.append hlen (fun y hy hclash => hj y hy ?_) fun _ => List.cons_ne_nil _ _)).bare (State.bare_setActivity _ _ _)
        exact hclash.2
      · exact hq
  unsubscribe i hq := ⟨hq.1.without i, hq.2.without i⟩
  takeNext {s} c hq := by
    have hc := State.queuesOk_iff.mp hq c
    unfold State.takeNext
    dsimp only
    split
    · rename_i hnil
      exact hq.setConverter (hnil ▸ hc)
    · rename_i r rest hcons
      rw [hcons] at hc
      exact (hq.setConverter (v := { s.converter c with
        state := if r.settle = 0 then .converting else .settling
        queue := rest
        current := some r
        timer := if r.settle = 0 then Config.conversionMicros else r.settle * Config.unitMicros
        delivering := none }) hc.of_cons).bare (State.bare_markConverting _ _)
  appendCheck c hlen hq := by
    refine hq.setConverter ((State.queuesOk_iff.mp hq c).append hlen (fun y _ hclash => ?_) fun hcheck => absurd hcheck (by decide))
    have hcheck : y.isCheck = true := decide_eq_true hclash.2.1
    exact absurd (hclash.1.symm.trans hcheck) (by decide)
  requestEngine {s} i m x hq := by
    unfold State.requestEngine
    split <;> exact hq
  releaseEngine {s} e hq := by
    obtain ⟨-, hs⟩ | ⟨_, _, _, _, _, -, -, -, hs⟩ := s.releaseEngine_cases e <;> rw [hs] <;> exact hq
  leaveWaitList _ hq := hq
  powerOn := ⟨.nil, .nil⟩
  inReset _ := ⟨.nil, .nil⟩


/-! ### The wait list (R122) and the lines (R68, R73) -/

theorem State.WaitListOk.bare {s t : State} (h : t.bare = s.bare) (hw : s.WaitListOk) : t.WaitListOk := by
  have ht : t.bare.WaitListOk := h ▸ (hw : s.bare.WaitListOk)
  exact ht

theorem waitListWorkKept : WorkKept State.WaitListOk where
  bare := State.WaitListOk.bare
  engines {s v} hv hw hne e := by
    have he : ({ s with engines := v } : State).engine e = v[e] := rfl
    rw [he, Ne, (hv e).free]
    exact hw hne e
  line l _ _ hw := by cases l <;> exact hw
  submit {s} i n r d hw := by
    unfold State.submit
    dsimp only
    split
    · cases servingConverter n <;> exact hw
    · split
      · cases servingConverter n <;> exact hw
      · exact hw
  unsubscribe _ hw := hw
  takeNext {s} c hw := by
    unfold State.takeNext
    dsimp only
    split
    · cases c <;> exact hw
    · exact State.WaitListOk.bare (State.bare_markConverting _ _) (by cases c <;> exact hw)
  appendCheck c _ hw := by cases c <;> exact hw
  requestEngine {s} i m x hw := by
    unfold State.requestEngine
    split
    · intro hne e
      rw [State.assignEngine, State.setActivity, State.setEntry_engine, State.engine_setEngine]
      split
      · simp only [Engine.assigned]
        split <;> nofun
      · exact hw hne e
    · rename_i hfree
      exact fun _ => State.freeEngine_eq_none.mp hfree
  releaseEngine {s} e hw := by
    obtain ⟨-, hs⟩ | ⟨passed, j, rest, m, x, hlist, -, -, hs⟩ := s.releaseEngine_cases e <;> rw [hs]
    · exact fun h => absurd rfl h
    · intro _ f
      rw [State.assignEngine, State.setActivity, State.setEntry_engine, State.engine_setEngine]
      split
      · simp only [Engine.assigned]
        split <;> nofun
      · exact hw (by simp [hlist]) f
  leaveWaitList {s} i hw hne := hw (fun h => hne (by simp [State.leaveWaitList, h]))
  powerOn h := absurd rfl h
  inReset _ h := absurd rfl h

theorem State.LinesOk.of_surroundings {s t : State} (h : t.surroundings = s.surroundings) (hs : s.LinesOk) : t.LinesOk := by
  intro l
  rw [State.line_eq_of_surroundings h l]
  exact hs l

theorem TrgContext.Ok.of_core {v w : TrgContext} (h : v.core = w.core) (hw : w.Ok) : v.Ok := by
  have hv : v.core.Ok := h ▸ (hw : w.core.Ok)
  exact hv

theorem linesOk_afterReset {s : State} {p q : Level} (h0 : s.trg0 = TrgContext.afterReset p)
    (h1 : s.trg1 = TrgContext.afterReset q) : s.LinesOk := by
  have hok : ∀ pin, (TrgContext.afterReset pin).Ok := fun pin => ⟨nofun, by simp [TrgContext.afterReset], nofun⟩
  intro l
  cases l
  · exact (h0 ▸ hok p : s.trg0.Ok)
  · exact (h1 ▸ hok q : s.trg1.Ok)

theorem linesWorkKept : WorkKept State.LinesOk where
  bare {s t} h hs l := by
    refine TrgContext.Ok.of_core ?_ (hs l)
    cases l
    · exact congrArg State.trg0 h
    · exact congrArg State.trg1 h
  engines _ hs l := by
    cases l
    · exact hs .trg0
    · exact hs .trg1
  line {s} l v hv hs k := by
    rw [State.line_setLine]
    split
    · exact hv (hs l)
    · exact hs k
  submit i n r d := State.LinesOk.of_surroundings (State.surroundings_submit _ i n r d)
  unsubscribe i := State.LinesOk.of_surroundings (State.surroundings_unsubscribe _ i)
  takeNext c := State.LinesOk.of_surroundings (State.surroundings_takeNext _ c)
  appendCheck c _ := State.LinesOk.of_surroundings (State.surroundings_setConverter _ rfl)
  requestEngine i m x := State.LinesOk.of_surroundings (State.surroundings_requestEngine _ i m x)
  releaseEngine e := State.LinesOk.of_surroundings (State.surroundings_releaseEngine _ e)
  leaveWaitList i := State.LinesOk.of_surroundings (State.surroundings_leaveWaitList _ i)
  powerOn := linesOk_afterReset rfl rfl
  inReset _ := linesOk_afterReset rfl rfl

/-- Settles O55: each of the three is kept by the few operations on the work that touch it. -/
theorem queueInvariantsAreKept : Obligations.QueueInvariantsAreKept := by
  intro s t h
  refine ⟨fun hq hw => ⟨?queues, ?waitList⟩, ?lines⟩
  case queues => exact queuesWorkKept.kept.step (j := ()) h hq
  case waitList => exact waitListWorkKept.kept.step (j := ()) h hw
  case lines => exact linesWorkKept.kept.step (j := ()) h

end Sys2Proof.Machine

/-! ### Invariants of the watch table, the due list and the attention sets

What entries, due list and attention sets must meet says nothing of a watch's activity and of the work behind it. For such a
statement the operations on the work come down to nothing. -/

namespace Sys2Proof.Machine

def Entry.resting (e : Entry) : Entry := { e with activity := .none }

/-- A state with all blanked but its entries without their activities, due list, hold claims and attention sets. -/
def State.register (s : State) : State :=
  { State.powerOn resetPins with
    entries := mapEntries Entry.resting s.entries
    dueList := s.dueList
    holdA := s.holdA
    holdB := s.holdB
    attentionA := s.attentionA.core
    attentionB := s.attentionB.core }

theorem mapEntries_get (f : Entry → Entry) (v : Vector Entry 64) (i : EntryIndex) : (mapEntries f v)[i] = f v[i] := by
  simp [mapEntries, Vector.getElem_mk]

theorem State.register_entry (s : State) (i : EntryIndex) : s.register.entry i = (s.entry i).resting :=
  mapEntries_get Entry.resting s.entries i

theorem State.register_congr {s t : State} (h : t.register = s.register) :
    (∀ i, (t.entry i).resting = (s.entry i).resting) ∧ t.dueList = s.dueList ∧ t.isHeld = s.isHeld ∧
      ∀ p, (t.attention p).causes = (s.attention p).causes := by
  refine ⟨fun i => ?_, (congrArg State.dueList h :), (congrArg State.isHeld h :), fun p => ?_⟩
  · rw [← State.register_entry, h, State.register_entry]
  · cases p
    · exact (congrArg (fun u : State => u.attentionA.causes) h :)
    · exact (congrArg (fun u : State => u.attentionB.causes) h :)

theorem State.state_of_register {s t : State} (h : t.register = s.register) (i : EntryIndex) :
    (t.entry i).state = (s.entry i).state := (congrArg Entry.state ((State.register_congr h).1 i) :)

theorem State.watch_of_register {s t : State} (h : t.register = s.register) (i : EntryIndex) :
    (t.entry i).watch = (s.entry i).watch := (congrArg Entry.watch ((State.register_congr h).1 i) :)

theorem State.generation_of_register {s t : State} (h : t.register = s.register) (i : EntryIndex) :
    (t.entry i).generation = (s.entry i).generation := (congrArg Entry.generation ((State.register_congr h).1 i) :)

theorem State.register_of_core {s t : State} (h : t.core = s.core) : t.register = s.register := (congrArg State.register h :)

section
variable (s : State)

theorem State.register_setEntry {i : EntryIndex} {e : Entry} (h : e.resting = (s.entry i).resting) :
    (s.setEntry i e).register = s.register := by
  have he : mapEntries Entry.resting (s.setEntry i e).entries = mapEntries Entry.resting s.entries := by
    refine Vector.ext fun k hk => ?_
    have hg := mapEntries_get Entry.resting (s.setEntry i e).entries ⟨k, hk⟩
    have hs := mapEntries_get Entry.resting s.entries ⟨k, hk⟩
    have hcase : ((s.setEntry i e).entry ⟨k, hk⟩).resting = (s.entry ⟨k, hk⟩).resting := by
      rw [State.entry_setEntry]
      split
      · rename_i hik
        rw [h, hik]
      · rfl
    exact hg.trans (hcase.trans hs.symm)
  unfold State.register
  rw [he]
  rfl

@[simp] theorem State.register_setActivity (i : EntryIndex) (a : Activity) : (s.setActivity i a).register = s.register :=
  State.register_setEntry s rfl

@[simp] theorem State.register_setEngine (e : EngineIndex) (v : Engine) : (s.setEngine e v).register = s.register := rfl

@[simp] theorem State.register_setConverter (c : ConverterId) (v : Converter) : (s.setConverter c v).register = s.register := by
  cases c <;> rfl

@[simp] theorem State.register_setLine (l : TrgLine) (v : TrgContext) : (s.setLine l v).register = s.register := by
  cases l <;> rfl

@[simp] theorem State.register_waitList (l : List EntryIndex) : { s with waitList := l }.register = s.register := rfl

@[simp] theorem State.register_submit (i : EntryIndex) (n : AnalogInput) (r : Fin 4) (d : Nat) :
    (s.submit i n r d).1.register = s.register := by
  unfold State.submit
  dsimp only
  split
  · simp
  · split <;> simp

@[simp] theorem State.register_unsubscribe (i : EntryIndex) : (s.unsubscribe i).register = s.register := rfl

@[simp] theorem State.register_markConverting (l : List EntryIndex) : (s.markConverting l).register = s.register := by
  unfold State.markConverting
  induction l generalizing s with
  | nil => rfl
  | cons i l ih => rw [List.foldl_cons, ih, State.register_setActivity]

@[simp] theorem State.register_takeNext (c : ConverterId) : (s.takeNext c).register = s.register := by
  unfold State.takeNext
  dsimp only
  split <;> simp

@[simp] theorem State.register_assignEngine (e : EngineIndex) (i : EntryIndex) (m : Measurement) (x : Nat) :
    (s.assignEngine e i m x).register = s.register := by simp [State.assignEngine]

@[simp] theorem State.register_requestEngine (i : EntryIndex) (m : Measurement) (x : Nat) :
    (s.requestEngine i m x).register = s.register := by
  unfold State.requestEngine
  split <;> simp

@[simp] theorem State.register_releaseEngine (e : EngineIndex) : (s.releaseEngine e).register = s.register := by
  obtain ⟨-, hs⟩ | ⟨_, _, _, _, _, -, -, -, hs⟩ := s.releaseEngine_cases e <;> rw [hs] <;> simp

@[simp] theorem State.register_leaveWaitList (i : EntryIndex) : (s.leaveWaitList i).register = s.register := rfl

@[simp] theorem State.register_letGo (i : EntryIndex) : (s.letGo i).register = s.register := by
  unfold State.letGo State.abandon
  split <;> try simp
  split <;> simp

theorem State.owns_of_register {s t : State} (h : t.register = s.register) (p : Port) (i : EntryIndex) :
    t.owns p i = s.owns p i := by
  rw [Bool.eq_iff_iff, State.owns_iff, State.owns_iff, State.watch_of_register h, State.state_of_register h]

end

/-! ### What a watch's owner keeps -/

theorem State.owns_setEntry {s : State} {i : EntryIndex} {e : Entry} {p : Port} {k : EntryIndex}
    (h : s.owns p i = true → ∃ w, e.watch = some w ∧ w.defn.owner = p ∧ (e.state = .defined ∨ e.state = .armed))
    (hp : s.owns p k = true) : (s.setEntry i e).owns p k = true := by
  rw [State.owns_iff, State.entry_setEntry]
  split
  · rename_i hik
    exact h (hik ▸ hp)
  · exact (State.owns_iff s p k).mp hp

/-- A change of a watch that keeps its owner. -/
theorem State.owns_updateWatch (s : State) (i : EntryIndex) {f : Watch → Watch} (hf : ∀ w, (f w).defn.owner = w.defn.owner)
    (p : Port) (k : EntryIndex) : (s.updateWatch i f).owns p k = s.owns p k := by
  unfold State.owns Entry.addressable
  rw [State.updateWatch_entry]
  by_cases hik : i = k
  · subst hik
    cases (s.entry i).watch <;> simp [hf]
  · rw [if_neg hik]

@[simp] theorem State.owns_setAttention (s : State) (q : Port) (a : Attention) (p : Port) (k : EntryIndex) :
    (s.setAttention q a).owns p k = s.owns p k := by simp [State.owns]

@[simp] theorem State.owns_raise (s : State) (i : EntryIndex) (cs : CauseSet) (p : Port) (k : EntryIndex) :
    (s.raise i cs).owns p k = s.owns p k := by simp [State.owns]

@[simp] theorem State.owns_countOverrun (s : State) (i : EntryIndex) (p : Port) (k : EntryIndex) :
    (s.countOverrun i).owns p k = s.owns p k :=
  (State.owns_raise _ i _ p k).trans (State.owns_updateWatch s i (by intro; rfl) p k)

@[simp] theorem State.owns_clearHeld (s : State) (i : EntryIndex) (p : Port) (k : EntryIndex) :
    (s.clearHeld i).owns p k = s.owns p k := State.owns_updateWatch s i (by intro; rfl) p k

@[simp] theorem State.owns_leaveDueList (s : State) (i : EntryIndex) (p : Port) (k : EntryIndex) :
    (s.leaveDueList i).owns p k = s.owns p k := State.owns_updateWatch s i (by intro; rfl) p k

@[simp] theorem State.owns_joinDueList (s : State) (i : EntryIndex) (d : DeviceTime) (p : Port) (k : EntryIndex) :
    (s.joinDueList i d).owns p k = s.owns p k := State.owns_updateWatch s i (by intro; rfl) p k

/-- A start leaves every watch with its owner. -/
theorem ownsStarts : StartsKept fun (j : Port × EntryIndex) s => s.owns j.1 j.2 = true where
  clearHeld i j s h := (State.owns_clearHeld s i _ _).trans h
  holdTrigger h _ _ := (State.owns_updateWatch _ _ (by intro; rfl) _ _).trans h
  countOverrun h _ := (State.owns_countOverrun _ _ _ _).trans h
  submit h _ _ _ := (State.owns_of_register (State.register_submit _ _ _ _ _) _ _).trans h
  requestEngine h _ _ _ := (State.owns_of_register (State.register_requestEngine _ _ _ _) _ _).trans h

theorem State.endOnce_owns {s : State} {i : EntryIndex} {p : Port} {k : EntryIndex} (h : s.owns p k = true) :
    (s.endOnce i).owns p k = true := by
  have h1 : ((s.leaveDueList i).clearHeld i).owns p k = true := by simpa using h
  refine State.owns_setEntry (fun hi => ?_) h1
  obtain ⟨w, hw, ho, -⟩ := (State.owns_iff _ p i).mp hi
  exact ⟨w, hw, ho, .inl rfl⟩

theorem State.deliver_owns {s : State} {i : EntryIndex} {o : Delivered} {p : Port} {k : EntryIndex} (h : s.owns p k = true) :
    (s.deliver i o).owns p k = true := by
  unfold State.deliver
  dsimp only
  split
  · rename_i hs
    refine State.owns_setEntry (fun hi => ?_) h
    obtain ⟨_, -, -, hd | hd⟩ := (State.owns_iff s p i).mp hi <;> simp [hs] at hd
  · rename_i w hs hw
    refine State.owns_setEntry (fun hi => ?_) h
    obtain ⟨w', hw', ho, -⟩ := (State.owns_iff s p i).mp hi
    cases hw.symm.trans hw'
    exact ⟨w.record o s.now, rfl, ho, .inl hs⟩
  · rename_i w hs hw
    unfold State.deliverArmed
    refine ownsStarts.completeHeld i (p, k) _ ?_
    have h1 : ((s.setEntry i { s.entry i with activity := .none, watch := some (w.deliver o s.now).1 }).raise i
        (w.deliver o s.now).2).owns p k = true := by
      rw [State.owns_raise]
      refine State.owns_setEntry (fun hi => ?_) h
      obtain ⟨w', hw', ho, -⟩ := (State.owns_iff s p i).mp hi
      cases hw.symm.trans hw'
      exact ⟨_, rfl, (Watch.deliver_keeps w o s.now).2.1.trans ho, .inr hs⟩
    dsimp only
    split
    · exact State.endOnce_owns h1
    · exact h1
  · exact h

theorem State.settleCompletion_owns {s : State} {i : EntryIndex} {p : Port} {k : EntryIndex} (h : s.owns p k = true) :
    (s.settleCompletion i).owns p k = true := by
  unfold State.settleCompletion State.deliverFromEngine
  split
  · exact h
  · dsimp only
    split
    · rw [State.owns_of_register (State.register_releaseEngine _ _)]
      exact State.deliver_owns h
    · exact h

/-! ### Steps -/

/-- What an operation comes down to where a statement says nothing of the work. -/
structure RegisterKept {ι : Type} (P : ι → State → Prop) : Prop where
  register : ∀ {j s t}, t.register = s.register → P j s → P j t
  clearHeld : ∀ i, Keeps P fun s => s.clearHeld i
  holdTrigger : ∀ {j s i w}, P j s → s.Armed i w → w.defn.contract.policy = .hold →
    P j (s.updateWatch i fun w => { w with dyn := { w.dyn with heldTrigger := true } })
  countOverrun : ∀ {j s i w}, P j s → s.Armed i w → P j (s.countOverrun i)
  expire : ∀ {j s i l}, P j s → s.lateness i = some l → P j (s.expire i l)
  deliver : ∀ {j s} i o, P j s → P j (s.deliver i o)
  setHold : ∀ {j s} p, P j s → P j (s.setHold p true)
  releaseHold : ∀ p before, (∀ c, Keeps P (before c)) → Keeps P fun s => s.releaseHold p before
  setLateness : ∀ {j s} i l, s.isHeld = true → P j s → P j (s.setLateness i l)
  removeMember : ∀ p i, Keeps P fun s => s.removeMember p i
  resetAttention : ∀ p, Keeps P fun s => s.setAttention p Attention.afterReset
  create : ∀ {j s i p b c k}, P j s → blockCreation b = some (c, k) → (s.entry i).state = .free →
    P j (s.setEntry i ⟨.defined, (s.entry i).generation, .none, some (Watch.created p c k)⟩)
  modify : ∀ {j s i w b c}, P j s → s.Carries i w → blockContract b = some c → P j (modifyWatchAt s c i w).1
  writeBank : ∀ {j s i w b k}, P j s → s.Carries i w → decodeBank b portLimits = some k → P j (writeBankAt s k i w).1
  swapBank : ∀ {j s i w}, P j s → s.Carries i w → P j (swapBankAt s i w).1
  armWatch : ∀ {j s i w} delay, P j s → (s.entry i).state = .defined → (s.entry i).watch = some w →
    P j (s.armWatch i w delay)
  disarmWatch : ∀ {j s i w}, P j s → s.Armed i w → P j (s.disarmWatch i)
  retireWatch : ∀ {j s p i}, P j s → s.owns p i = true → P j (s.retireWatch p i)
  resetOverruns : ∀ i, Keeps P fun s => s.updateWatch i fun w => { w with dyn := { w.dyn with overruns := 0 } }
  powerOn : ∀ j, P j (State.powerOn resetPins)
  inReset : Keeps P State.inReset

section
variable {ι : Type} {P : ι → State → Prop} (R : RegisterKept P)
include R

theorem RegisterKept.starts : StartsKept P where
  clearHeld := R.clearHeld
  holdTrigger := R.holdTrigger
  countOverrun := R.countOverrun
  submit hP _ _ _ := R.register (State.register_submit _ _ _ _ _) hP
  requestEngine hP _ _ _ := R.register (State.register_requestEngine _ _ _ _) hP

theorem RegisterKept.deliverFromEngine {j : ι} {s : State} (e : EngineIndex) (hP : P j s) : P j (s.deliverFromEngine e) := by
  unfold State.deliverFromEngine
  dsimp only
  split
  · exact R.register (State.register_releaseEngine _ _) (R.deliver _ _ hP)
  · exact hP

theorem RegisterKept.takeDelivery {j : ι} {s : State} (source : DeliverySource) (hP : P j s) :
    P j (s.takeDelivery source) := by
  cases source with
  | converter c i =>
    show P j (s.deliverFromConverter c i)
    unfold State.deliverFromConverter
    dsimp only
    split
    · split
      · have hP1 := fun o v => R.deliver i o (R.register (State.register_setConverter s c v) hP)
        split
        · exact R.register (State.register_takeNext _ c) (hP1 _ _)
        · exact hP1 _ _
      · exact hP
    · exact hP
  | engine e => exact R.deliverFromEngine e hP

theorem RegisterKept.settleCompletion {j : ι} {s : State} (i : EntryIndex) (hP : P j s) : P j (s.settleCompletion i) := by
  unfold State.settleCompletion
  split
  · exact hP
  · exact R.deliverFromEngine _ hP

theorem RegisterKept.kept : Kept P where
  toStartsKept := R.starts
  core h := R.register (State.register_of_core h)
  engines {_ s _} _ := R.register (s := s) rfl
  line l _ _ := R.register (State.register_setLine _ l _)
  setHold := R.setHold
  releaseHold := R.releaseHold
  expire := R.expire
  setLateness := R.setLateness
  removeMember := R.removeMember
  resetAttention := R.resetAttention
  create := R.create
  modify := R.modify
  writeBank := R.writeBank
  swapBank := R.swapBank
  arm {j s i w} delay hP hc := by
    unfold armAt
    split
    · exact hP
    · rename_i hs
      simp only [not_or, not_not] at hs
      split
      · exact R.armWatch delay hP hs.1 hc.watch
      · split
        · exact R.armWatch delay hP hs.1 hc.watch
        · exact hP
  disarm {j s i w} hP hc := by
    unfold disarmAt
    split
    · exact hP
    · dsimp only
      have hP1 := R.settleCompletion i hP
      split
      · exact hP1
      · rename_i hs
        have ho : s.owns w.defn.owner i = true := by
          have := hc.not_free
          simp [State.owns, hc.watch, hc.addressable]
        obtain ⟨w', hw', -⟩ := (State.owns_iff _ _ i).mp (State.settleCompletion_owns (i := i) ho)
        exact R.disarmWatch hP1 ⟨by simpa using hs, hw'⟩
  retire {j s i w} hP hc := by
    have ho : s.owns w.defn.owner i = true := by simp [State.owns, hc.watch, hc.addressable]
    exact R.retireWatch (R.settleCompletion i hP) (State.settleCompletion_owns ho)
  retireOwned p i j s hP := by
    show P j (State.retireOwned p s i)
    unfold State.retireOwned
    split
    · rename_i ho
      exact R.retireWatch (R.settleCompletion i hP) (State.settleCompletion_owns ho)
    · exact hP
  resetOverruns := R.resetOverruns
  appendCheck c _ := R.register (State.register_setConverter _ c _)
  takeNext c _ := R.register (State.register_takeNext _ c)
  beginConversion c _ := R.register (State.register_setConverter _ c _)
  takeDelivery source _ _ := R.takeDelivery source
  powerOn := R.powerOn
  inReset := R.inReset

end

end Sys2Proof.Machine

/-! ### Every watch in order (R3, R5, R6, R30, R48, R57, R58, R146) -/

namespace Sys2Proof.Machine

/-- One entry of a table in order. -/
def Entry.Ok (e : Entry) : Prop := (e.watch = none ↔ e.state = .free) ∧ ∀ w, e.watch = some w → WatchOk e.state w

theorem State.tableOk_iff {s : State} : s.TableOk ↔ ∀ i, (s.entry i).Ok :=
  ⟨fun h i => ⟨h.carries i, h.watches i⟩, fun h => ⟨fun i => (h i).1, fun i => (h i).2⟩⟩

theorem Entry.ok_of_resting {e e' : Entry} (h : e'.resting = e.resting) (he : e.Ok) : e'.Ok := by
  have he' : e'.resting.Ok := h ▸ (he : e.resting.Ok)
  exact he'

theorem Entry.ok_of_watch {e : Entry} {w : Watch} (hw : e.watch = some w) (hs : e.state ≠ .free) (h : WatchOk e.state w) :
    e.Ok :=
  ⟨by simp [hw, hs], fun w' hw' => Option.some.inj (hw.symm.trans hw') ▸ h⟩

theorem Entry.ok_freed (g : BitVec 4) : (⟨.free, g, .none, none⟩ : Entry).Ok := ⟨by simp, fun _ h => absurd h (by simp)⟩

/-- Where one entry changes, the table stays in order if that entry does. -/
theorem State.TableOk.of_entry {s t : State} (h : s.TableOk) (i : EntryIndex)
    (hother : ∀ k, i ≠ k → (t.entry k).resting = (s.entry k).resting) (hi : (t.entry i).Ok) : t.TableOk := by
  rw [State.tableOk_iff] at h ⊢
  intro k
  by_cases hk : i = k
  · exact hk ▸ hi
  · exact Entry.ok_of_resting (hother k hk) (h k)

theorem State.TableOk.setEntry {s : State} {i : EntryIndex} {e : Entry} (h : s.TableOk) (he : e.Ok) :
    (s.setEntry i e).TableOk := by
  refine h.of_entry i (fun k hk => ?_) ?_
  · rw [State.entry_setEntry, if_neg hk]
  · rw [State.entry_setEntry, if_pos rfl]
    exact he

theorem State.TableOk.updateWatch {s : State} {i : EntryIndex} {f : Watch → Watch} (h : s.TableOk)
    (hf : ∀ w, (s.entry i).watch = some w → WatchOk (s.entry i).state w → WatchOk (s.entry i).state (f w)) :
    (s.updateWatch i f).TableOk := by
  refine h.of_entry i (fun k hk => by rw [State.updateWatch_entry, if_neg hk]) ?_
  rw [State.updateWatch_entry, if_pos rfl]
  refine ⟨by simpa using h.carries i, fun w' hw' => ?_⟩
  obtain ⟨w, hw, rfl⟩ := Option.map_eq_some_iff.mp hw'
  exact hf w hw (h.watches i w hw)

theorem State.TableOk.of_entries {s t : State} (h : s.TableOk) (he : ∀ i, t.entry i = s.entry i) : t.TableOk := by
  rw [State.tableOk_iff] at h ⊢
  exact fun i => he i ▸ h i

section
variable {st : EntryState} {w : Watch} (h : WatchOk st w)
include h

theorem WatchOk.clearHeld : WatchOk st { w with dyn := { w.dyn with heldTrigger := false } } := { h with held := nofun }

theorem WatchOk.overrun : WatchOk st { w with dyn := { w.dyn with overruns := advanceOverruns w.dyn.overruns } } :=
  { h with overruns := min_le_left _ _ }

theorem WatchOk.record (o : Delivered) (now : DeviceTime) : WatchOk st (w.record o now) := { h with }

/-- A swap onto a bank that is present (R29, R143). -/
theorem WatchOk.toggleBanks (hb : w.defn.inactiveBank ≠ none) : WatchOk st w.toggleBanks :=
  { h with
    candidate := nofun
    swap := nofun
    unjudged := fun hn => absurd hn hb }

theorem WatchOk.takeSwap : WatchOk st w.takeSwap.1 ∧ w.takeSwap.1.dyn.swapPending = false := by
  unfold Watch.takeSwap
  split
  · rename_i hs
    exact ⟨h.toggleBanks (h.swap hs).2, rfl⟩
  · rename_i hs
    exact ⟨h, by simpa using hs⟩

theorem WatchOk.qualifyTo (hb : w.defn.activeBank ≠ none) (x : SignalClass) : WatchOk st (w.qualifyTo x).1 := by
  unfold Watch.qualifyTo
  split
  · exact { h with candidate := nofun, unjudged := fun hn => absurd hn hb }
  · split
    · exact { h with candidate := nofun, unjudged := fun hn => absurd hn hb }
    · rename_i hcount
      refine { h with candidate := fun k hk => ?_, unjudged := fun hn => absurd hn hb }
      cases hk
      have hq := h.qualify
      unfold supportCount at hcount ⊢
      split at hcount
      · dsimp only
        omega
      · rename_i c hc
        have := h.candidate c hc
        dsimp only at hcount ⊢
        split at hcount <;> rename_i hp
        · rw [if_pos hp]
          omega
        · rw [if_neg hp]
          omega

theorem WatchOk.judge (o : Delivered) : WatchOk st (w.judge o).1 ∧ (w.judge o).1.dyn.swapPending = w.dyn.swapPending := by
  unfold Watch.judge
  split
  · exact ⟨{ h with candidate := nofun, unjudged := fun hn => ⟨(h.unjudged hn).1, rfl⟩ }, rfl⟩
  · split
    · exact ⟨h, rfl⟩
    · rename_i hb
      refine ⟨h.qualifyTo (by simp [hb]) _, ?_⟩
      unfold Watch.qualifyTo
      split
      · rfl
      · split <;> rfl

/-- Steps 1 to 4 of a delivery leave the watch in order, with no swap pending (R140). -/
theorem WatchOk.deliver (o : Delivered) (now : DeviceTime) :
    WatchOk st (w.deliver o now).1 ∧ (w.deliver o now).1.dyn.swapPending = false := by
  obtain ⟨hs, hp⟩ := (h.record o now).takeSwap
  obtain ⟨hj, hjp⟩ := hs.judge o
  exact ⟨hj, hjp.trans hp⟩

/-- A watch that is no longer scheduled, holds no trigger and has no swap pending may stand in any state but ARMED. -/
theorem WatchOk.unscheduled (hp : w.dyn.swapPending = false) {st' : EntryState} (hst : st' ≠ .armed) :
    WatchOk st' { w with dyn := { w.dyn with due := none, heldTrigger := false } } :=
  { h with
    swap := fun hs => absurd (hp.symm.trans hs) nofun
    held := nofun
    due := ⟨nofun, fun ha => absurd ha.1 hst⟩ }

end

theorem WatchOk.due_none {st : EntryState} {w : Watch} (h : WatchOk st w)
    (hn : ¬ (st = .armed ∧ ∃ n, w.defn.contract.start = .interval n)) : w.dyn.due = none := by
  have := mt h.due.mp hn
  simpa using this

/-- The definition test gives a contract in order (R4). -/
theorem blockContract_qualify {b : DefBlock} {c : Contract} (h : blockContract b = some c) : 1 ≤ c.qualify ∧ c.qualify ≤ 16 := by
  unfold blockContract at h
  split at h
  · split at h
    · rename_i hq
      cases h
      exact ⟨hq.1, hq.2.1⟩
    · cases h
  · cases h

/-- A bank that is read from a frame is in order and within the limits it is tested against (R3). -/
theorem decodeBank_ok {b : BankBlock} {limits : Int × Int} {t : Threshold} (h : decodeBank b limits = some (some t)) :
    t.ordered = true ∧ t.within limits = true := by
  unfold decodeBank at h
  split at h
  · cases h
  · split at h
    · rename_i ht
      cases h
      simpa using ht
    · cases h
  · cases h

theorem bankOk_of_within {k : Kind} {b : Option Threshold} (ho : ∀ t, b = some t → t.ordered = true)
    (hw : bankWithin b k.limits = true) : bankOk k b := by
  cases b with
  | none => trivial
  | some t => exact ⟨ho t rfl, hw⟩

theorem bankOk.ordered {k : Kind} {b : Option Threshold} (h : bankOk k b) : ∀ t, b = some t → t.ordered = true := by
  rintro t rfl
  exact h.1

theorem blockCreation_eq_some {b : DefBlock} {c : Contract} {k : Option Threshold} :
    blockCreation b = some (c, k) ↔ blockContract b = some c ∧ decodeBank b.bankA c.measure.kind.limits = some k := by
  unfold blockCreation
  split
  · rename_i h
    simp [h]
  · rename_i c' h
    simp only [h, Option.map_eq_some_iff, Prod.mk.injEq, Option.some.injEq]
    constructor
    · rintro ⟨_, hk, rfl, rfl⟩
      exact ⟨rfl, hk⟩
    · rintro ⟨rfl, hk⟩
      exact ⟨k, hk, rfl, rfl⟩

theorem watchOk_created {b : DefBlock} {c : Contract} {k : Option Threshold} (h : blockCreation b = some (c, k)) (p : Port) :
    WatchOk .defined (Watch.created p c k) where
  bankA := by
    cases k with
    | none => trivial
    | some t => exact decodeBank_ok (blockCreation_eq_some.mp h).2
  bankB := trivial
  qualify := blockContract_qualify (blockCreation_eq_some.mp h).1
  candidate := nofun
  overruns := Nat.zero_le _
  swap := nofun
  held := nofun
  unjudged _ := ⟨rfl, rfl⟩
  due := ⟨nofun, nofun⟩

end Sys2Proof.Machine

namespace Sys2Proof.Machine

theorem State.TableOk.register {s t : State} (h : t.register = s.register) (hs : s.TableOk) : t.TableOk := by
  rw [State.tableOk_iff] at hs ⊢
  exact fun i => Entry.ok_of_resting ((State.register_congr h).1 i) (hs i)

theorem State.TableOk.raise {s : State} (h : s.TableOk) (i : EntryIndex) (cs : CauseSet) : (s.raise i cs).TableOk :=
  h.of_entries fun k => State.raise_entry s i k cs

theorem State.TableOk.not_free {s : State} (h : s.TableOk) {i : EntryIndex} {w : Watch} (hw : (s.entry i).watch = some w) :
    (s.entry i).state ≠ .free := fun hf => by simp [(h.carries i).mpr hf] at hw

theorem tableStarts : StartsKept fun (_ : Unit) s => s.TableOk where
  clearHeld _ _ _ h := h.updateWatch fun _ _ hw => hw.clearHeld
  holdTrigger {_ _ i w} h ha hp := h.updateWatch fun w' hw' hok => by
    cases ha.watch.symm.trans hw'
    exact { hok with held := fun _ => ⟨ha.state, hp⟩ }
  countOverrun h _ := (h.updateWatch fun _ _ hw => hw.overrun).raise _ _
  submit h _ _ _ := h.register (State.register_submit _ _ _ _ _)
  requestEngine h _ _ _ := h.register (State.register_requestEngine _ _ _ _)

theorem State.TableOk.leaveDueList {s : State} {i : EntryIndex} (h : s.TableOk)
    (hn : ∀ w, (s.entry i).watch = some w → ¬ ((s.entry i).state = .armed ∧ ∃ n, w.defn.contract.start = .interval n)) :
    (s.leaveDueList i).TableOk := by
  have hu : (s.updateWatch i fun w => { w with dyn := { w.dyn with due := none } }).TableOk :=
    h.updateWatch fun w hw hok => { hok with due := ⟨nofun, fun ha => absurd ha (hn w hw)⟩ }
  exact hu.of_entries fun k => rfl

theorem State.TableOk.expire {s : State} {i : EntryIndex} (h : s.TableOk) (l : Lateness) : (s.expire i l).TableOk := by
  refine tableStarts.expire (j := ()) (fun hn => h.leaveDueList fun w hw ha => ?_) fun w n due next ha hstart _ => ?_
  · obtain ⟨due, hdue⟩ := Option.isSome_iff_exists.mp ((h.watches i w hw).due.mpr ha)
    obtain ⟨n, hstart⟩ := ha.2
    exact hn w n due ⟨ha.1, hw⟩ hstart hdue
  · refine h.of_entry i (fun k hk => by simp [hk]) (Entry.ok_of_watch (w := { w with dyn := { w.dyn with due := some next } })
      (by simp [ha.watch]) (by simp [ha.state]) ?_)
    simp only [State.joinDueList_entry, State.leaveDueList_entry, if_true]
    exact { h.watches i w ha.watch with due := ⟨fun _ => ⟨ha.state, n, hstart⟩, fun _ => rfl⟩ }

theorem State.TableOk.deliver {s : State} (h : s.TableOk) (i : EntryIndex) (o : Delivered) : (s.deliver i o).TableOk := by
  unfold State.deliver
  dsimp only
  split
  · exact h.setEntry (Entry.ok_freed _)
  · rename_i w hs hw
    exact h.setEntry (Entry.ok_of_watch rfl (by simp [hs]) ((h.watches i w hw).record o s.now))
  · rename_i w hs hw
    obtain ⟨hok, hswap⟩ := (h.watches i w hw).deliver o s.now
    have h1 : ((s.setEntry i { s.entry i with activity := .none, watch := some (w.deliver o s.now).1 }).raise i
        (w.deliver o s.now).2).TableOk :=
      (h.setEntry (e := { s.entry i with activity := .none, watch := some (w.deliver o s.now).1 })
        (Entry.ok_of_watch rfl (by simp [hs]) hok)).raise i _
    unfold State.deliverArmed
    refine tableStarts.completeHeld i () _ ?_
    dsimp only
    split
    · refine h1.of_entry i (fun k hk => by simp [State.endOnce, hk]) (Entry.ok_of_watch (w := _) (by simp [State.endOnce]; rfl)
        (by simp [State.endOnce]) ?_)
      simp only [State.endOnce, State.entry_setEntry, if_true]
      exact hok.unscheduled hswap nofun
    · exact h1
  · exact h

/-- MODIFY WATCH in DEFINED (R23): the banks fit the new kind. -/
theorem WatchOk.modified_defined {w : Watch} {c : Contract} {b : DefBlock} (h : WatchOk .defined w)
    (hc : blockContract b = some c) (ha : bankWithin w.defn.bankA c.measure.kind.limits = true)
    (hb : bankWithin w.defn.bankB c.measure.kind.limits = true) : WatchOk .defined (w.modified c) where
  bankA := bankOk_of_within h.bankA.ordered ha
  bankB := bankOk_of_within h.bankB.ordered hb
  qualify := blockContract_qualify hc
  candidate k hk := by
    simp only [Watch.modified] at hk ⊢
    split at hk
    · rename_i hq
      exact hq ▸ h.candidate k hk
    · cases hk
  overruns := h.overruns
  swap := h.swap
  held hh := by
    simp only [Watch.modified] at hh
    split at hh
    · cases hh
    · exact absurd (h.held hh).1 nofun
  unjudged hn := by
    obtain ⟨hcond, hcand⟩ := h.unjudged hn
    refine ⟨hcond, ?_⟩
    simp only [Watch.modified, hcand, ite_self]
  due := ⟨fun hd => absurd (h.due.mp hd).1 nofun, fun hd => absurd hd.1 nofun⟩

theorem Contract.interval_iff_of_permitted {old new : Contract} (hp : old.permitted new = true) :
    (∃ n, new.start = .interval n) ↔ ∃ n, old.start = .interval n := by
  simp only [Contract.permitted, Bool.and_eq_true] at hp
  have hstart := hp.2
  cases ho : old.start <;> cases hn : new.start <;> simp [Start.sameBut, ho, hn] at hstart ⊢

/-- MODIFY WATCH in ARMED (R25, R26): the kind and the way of starting stand. -/
theorem WatchOk.modified_armed {w : Watch} {c : Contract} {b : DefBlock} (h : WatchOk .armed w)
    (hc : blockContract b = some c) (hp : w.defn.contract.permitted c = true) : WatchOk .armed (w.modified c) := by
  have hinterval := Contract.interval_iff_of_permitted hp
  simp only [Contract.permitted, Bool.and_eq_true, decide_eq_true_eq] at hp
  obtain ⟨⟨hm, -⟩, -⟩ := hp
  exact
    { bankA := by simpa [Watch.modified, hm] using h.bankA
      bankB := by simpa [Watch.modified, hm] using h.bankB
      qualify := blockContract_qualify hc
      candidate := fun k hk => by
        simp only [Watch.modified] at hk ⊢
        split at hk
        · rename_i hq
          exact hq ▸ h.candidate k hk
        · cases hk
      overruns := h.overruns
      swap := h.swap
      held := fun hh => by
        simp only [Watch.modified] at hh ⊢
        split at hh
        · cases hh
        · rename_i hdrop
          refine ⟨trivial, ?_⟩
          cases hpol : c.policy
          · rfl
          · exact absurd hpol hdrop
      unjudged := fun hn => by
        obtain ⟨hcond, hcand⟩ := h.unjudged hn
        refine ⟨hcond, ?_⟩
        simp only [Watch.modified, hcand, ite_self]
      due := h.due.trans (and_congr_right fun _ => hinterval.symm) }

theorem WatchOk.setBank {st : EntryState} {w : Watch} {k : Option Threshold} (h : WatchOk st w)
    (hs : w.dyn.swapPending = false) (hk : bankOk w.defn.contract.measure.kind k) :
    WatchOk st { w with defn := w.defn.setBank w.defn.active.other k } := by
  have hswap : ∀ d : Definition, w.dyn.swapPending = true → st = .armed ∧ d.inactiveBank ≠ none :=
    fun _ hp => absurd (hs.symm.trans hp) nofun
  have hact : (w.defn.setBank w.defn.active.other k).activeBank = w.defn.activeBank := by
    unfold Definition.activeBank
    cases hw : w.defn.active <;> simp [Definition.setBank, BankId.other, Definition.bank, hw]
  have hunjudged : (w.defn.setBank w.defn.active.other k).activeBank = none →
      w.dyn.condition = .unknown ∧ w.dyn.candidate = none := fun hn => h.unjudged (hact.symm.trans hn)
  cases ha : w.defn.active with
  | a => exact { h with bankB := hk, swap := hswap _, unjudged := by rw [← ha]; exact hunjudged }
  | b => exact { h with bankA := hk, swap := hswap _, unjudged := by rw [← ha]; exact hunjudged }


theorem State.TableOk.disarmWatch {s : State} {i : EntryIndex} {w : Watch} (h : s.TableOk) (ha : s.Armed i w) :
    (s.disarmWatch i).TableOk := by
  have hok := ha.state ▸ h.watches i w ha.watch
  unfold State.disarmWatch
  dsimp only
  generalize hs1 : ((s.leaveDueList i).clearHeld i).updateWatch i
    (fun w => if w.dyn.swapPending then w.toggleBanks else w) = s1
  have hlet := State.register_letGo s1 i
  have hw1 : (s1.entry i).watch = some (if w.dyn.swapPending = true then
      Watch.toggleBanks { w with dyn := { w.dyn with due := none, heldTrigger := false } }
      else { w with dyn := { w.dyn with due := none, heldTrigger := false } }) := by
    simp [← hs1, ha.watch]
  refine h.of_entry i (fun k hk => ?_) (Entry.ok_of_watch (w := if w.dyn.swapPending = true then
    Watch.toggleBanks { w with dyn := { w.dyn with due := none, heldTrigger := false } }
    else { w with dyn := { w.dyn with due := none, heldTrigger := false } }) ?_ (by simp) ?_)
  rotate_left
  · rw [State.entry_setEntry, if_pos rfl]
    exact (State.watch_of_register hlet i).trans hw1
  · rw [State.entry_setEntry, if_pos rfl]
    split
    · rename_i hp
      have ht := hok.toggleBanks (hok.swap hp).2
      exact ht.unscheduled rfl nofun
    · rename_i hp
      exact hok.unscheduled (by simpa using hp) nofun
  · rw [State.entry_setEntry, if_neg hk, (State.register_congr hlet).1 k, ← hs1]
    simp [hk]

theorem State.TableOk.retireWatch {s : State} {p : Port} {i : EntryIndex} (h : s.TableOk) (ho : s.owns p i = true) :
    (s.retireWatch p i).TableOk := by
  obtain ⟨w, hw, -, hst⟩ := (State.owns_iff s p i).mp ho
  have hok := h.watches i w hw
  unfold State.retireWatch
  dsimp only
  generalize hs1 : (((s.leaveDueList i).removeMember p i).clearHeld i).updateWatch i
    (fun w => { w with dyn := { w.dyn with swapPending := false } }) = s1
  have hother : ∀ k, i ≠ k → s1.entry k = s.entry k := fun k hk => by
    rw [← hs1]
    simp [hk, State.removeMember]
  split
  · refine h.of_entry i (fun k hk => ?_) (Entry.ok_of_watch (w := { w with dyn := { w.dyn with
      due := none, heldTrigger := false, swapPending := false } }) ?_ (by simp) ?_)
    · rw [State.entry_setEntry, if_neg hk, hother k hk]
    · rw [State.entry_setEntry, if_pos rfl, ← hs1]
      simp [hw, State.removeMember]
    · rw [State.entry_setEntry, if_pos rfl]
      have hq : WatchOk (s.entry i).state { w with dyn := { w.dyn with swapPending := false } } := { hok with swap := nofun }
      exact hq.unscheduled rfl nofun
  · refine h.of_entry i (fun k hk => ?_) ?_
    · rw [State.entry_setEntry, if_neg hk, (State.register_congr (State.register_letGo s1 i)).1 k, hother k hk]
    · rw [State.entry_setEntry, if_pos rfl]
      exact Entry.ok_freed _

theorem tableRegisterKept : RegisterKept fun (_ : Unit) s => s.TableOk where
  register h := State.TableOk.register h
  clearHeld i _ h := tableStarts.clearHeld (j := ()) i h
  holdTrigger h ha hp := tableStarts.holdTrigger (j := ()) h ha hp
  countOverrun h ha := tableStarts.countOverrun (j := ()) h ha
  expire h _ := h.expire _
  deliver i o h := h.deliver i o
  setHold p h := h.of_entries fun i => State.setHold_entry ..
  releaseHold := tableStarts.releaseHold (fun p _ _ h => h.of_entries fun i => State.setHold_entry ..)
    (fun _ _ h => h.of_entries fun _ => rfl) fun h _ => h.expire _
  setLateness _ _ _ h := h.of_entries fun _ => rfl
  removeMember p i _ s h := h.of_entries fun k => State.setAttention_entry ..
  resetAttention p _ s h := h.of_entries fun k => State.setAttention_entry ..
  create h hb _ := h.setEntry (Entry.ok_of_watch rfl (by simp) (watchOk_created hb _))
  modify {_ s i w _ c} h hc hb := by
    have hok := h.watches i w hc.watch
    have hset : WatchOk (s.entry i).state (w.modified c) →
        (s.setEntry i { s.entry i with watch := some (w.modified c) }).TableOk := fun hm =>
      h.setEntry (Entry.ok_of_watch rfl (h.not_free hc.watch) hm)
    unfold modifyWatchAt
    dsimp only
    split
    · rename_i hs
      split
      · rename_i hp
        have hm := hset (hs ▸ (hs ▸ hok).modified_armed hb hp)
        unfold State.retestLateness
        split
        · split
          · exact hm.of_entries fun _ => rfl
          · exact hm
        · exact hm
      · exact h
    · rename_i hs
      have hd : (s.entry i).state = .defined := by
        obtain ⟨hf, hr⟩ := hc.not_free
        cases hst : (s.entry i).state <;> simp_all
      split
      · exact h
      · split
        · rename_i hbanks
          simp only [Bool.and_eq_true] at hbanks
          exact hset (hd ▸ (hd ▸ hok).modified_defined hb hbanks.1 hbanks.2)
        · exact h
  writeBank {_ s i w _ k} h hc hb := by
    unfold writeBankAt
    split
    · exact h
    · rename_i hp
      split
      · rename_i hk
        refine h.updateWatch fun w' hw' hok => ?_
        cases hc.watch.symm.trans hw'
        refine hok.setBank (by simpa using hp) (bankOk_of_within (fun t ht => ?_) hk)
        exact (decodeBank_ok (ht ▸ hb)).1
      · exact h
  swapBank {_ s i w} h hc := by
    unfold swapBankAt
    split
    · exact h
    · rename_i hn
      simp only [not_or] at hn
      split
      · rename_i hs
        refine h.updateWatch fun w' hw' hok => ?_
        cases hc.watch.symm.trans hw'
        exact { hok with swap := fun _ => ⟨hs, hn.1⟩ }
      · refine h.updateWatch fun w' hw' hok => ?_
        cases hc.watch.symm.trans hw'
        exact hok.toggleBanks hn.1
  armWatch {_ s i w} delay h hs hw := by
    have hok := hs ▸ h.watches i w hw
    unfold State.armWatch
    dsimp only
    split
    · rename_i n hstart
      have hj : ((s.setEntry i { s.entry i with state := .armed, watch := some w.armed }).joinDueList i
          (s.now + intervalUnits delay.toNat)).TableOk := by
        refine h.of_entry i (fun k hk => by simp [hk]) (Entry.ok_of_watch (w := { w.armed with dyn := { w.armed.dyn with
          due := some (s.now + intervalUnits delay.toNat) } }) (by simp) (by simp) ?_)
        simp only [State.joinDueList_entry, State.entry_setEntry, if_true]
        exact { hok with
          candidate := nofun
          swap := fun hp => absurd (hok.swap hp).1 nofun
          held := nofun
          unjudged := fun _ => ⟨rfl, rfl⟩
          due := ⟨fun _ => ⟨rfl, n, hstart⟩, fun _ => rfl⟩ }
      split
      · exact hj.expire _
      · exact hj
    · rename_i hstart
      have hdue : w.dyn.due = none := hok.due_none fun ha => absurd ha.1 nofun
      refine h.setEntry (Entry.ok_of_watch rfl (by simp) ?_)
      exact { hok with
        candidate := nofun
        swap := fun hp => absurd (hok.swap hp).1 nofun
        held := nofun
        unjudged := fun _ => ⟨rfl, rfl⟩
        due := ⟨fun hd => absurd (hdue ▸ hd : (none : Option DeviceTime).isSome = true) nofun,
          fun ⟨_, n, hn⟩ => absurd hn (hstart n)⟩ }
  disarmWatch h ha := h.disarmWatch ha
  retireWatch h ho := h.retireWatch ho
  resetOverruns _ _ _ h := h.updateWatch fun _ _ hok => { hok with overruns := Nat.zero_le _ }
  powerOn _ := State.tableOk_iff.mpr fun i => by
    have hi : (State.powerOn resetPins).entry i = Entry.powerOn := by simp [State.entry, State.powerOn]
    rw [hi]
    exact Entry.ok_freed 0
  inReset _ s _ := State.tableOk_iff.mpr fun i => by
    have hi : s.inReset.entry i = (s.entry i).afterReset := mapEntries_get Entry.afterReset s.entries i
    rw [hi]
    exact Entry.ok_freed _

/-- Settles O56: every operation on watches leaves each watch it changes in order. -/
theorem tableInvariantIsKept : Obligations.TableInvariantIsKept :=
  fun _ hs _ h => tableRegisterKept.kept.step (j := ()) h hs

end Sys2Proof.Machine

/-! ### The attention sets (O57) -/

namespace Sys2Proof.Machine

/-- What leaves the attention sets and every owner's watches stands. -/
theorem State.AttentionOk.of_owns {s t : State} (hs : s.AttentionOk) (hc : ∀ p, (t.attention p).causes = (s.attention p).causes)
    (ho : ∀ p i, s.owns p i = true → t.owns p i = true) : t.AttentionOk := fun p i hi =>
  ho p i (hs p i (by rwa [← hc p]))

theorem State.AttentionOk.register {s t : State} (h : t.register = s.register) (hs : s.AttentionOk) : t.AttentionOk :=
  hs.of_owns (State.register_congr h).2.2.2 fun p i ho => (State.owns_of_register h p i).trans ho

theorem State.AttentionOk.updateWatch {s : State} (h : s.AttentionOk) (i : EntryIndex) {f : Watch → Watch}
    (hf : ∀ w, (f w).defn.owner = w.defn.owner) : (s.updateWatch i f).AttentionOk :=
  h.of_owns (fun p => by simp [State.updateWatch]; split <;> simp) fun p k ho => (State.owns_updateWatch s i hf p k).trans ho

theorem State.AttentionOk.setEntry {s : State} (h : s.AttentionOk) {i : EntryIndex} {e : Entry}
    (he : ∀ p, s.owns p i = true → ∃ w, e.watch = some w ∧ w.defn.owner = p ∧ (e.state = .defined ∨ e.state = .armed)) :
    (s.setEntry i e).AttentionOk :=
  h.of_owns (fun p => by simp) fun p _ ho => State.owns_setEntry (he p) ho

/-- Causes go to the owner of the watch (R152). -/
theorem State.AttentionOk.raise {s : State} {i : EntryIndex} (h : s.AttentionOk) (cs : CauseSet)
    (ho : ∀ w, (s.entry i).watch = some w → s.owns w.defn.owner i = true) : (s.raise i cs).AttentionOk := by
  cases hw : (s.entry i).watch with
  | none => rwa [State.raise, hw]
  | some w =>
    rw [State.raise_of_watch hw]
    intro p k hk
    have howns : (s.afterCauses i w cs).owns p k = s.owns p k := State.owns_setAttention _ _ _ _ _
    rw [howns]
    by_cases hp : w.defn.owner = p ∧ i = k
    · exact hp.1 ▸ hp.2 ▸ ho w hw
    · refine h p k ?_
      rw [State.afterCauses, State.attention_setAttention] at hk
      split at hk
      · rename_i hpo
        have hik : i.val ≠ k.val := fun hik => hp ⟨hpo, Fin.ext hik⟩
        simpa [hik, hpo] using hk
      · exact hk

theorem State.Armed.owns {s : State} {i : EntryIndex} {w : Watch} (h : s.Armed i w) : s.owns w.defn.owner i = true :=
  (State.owns_iff s _ i).mpr ⟨w, h.watch, rfl, .inr h.state⟩

theorem attentionStarts : StartsKept fun (_ : Unit) s => s.AttentionOk where
  clearHeld i _ _ h := h.updateWatch i (by intro; rfl)
  holdTrigger h _ _ := h.updateWatch _ (by intro; rfl)
  countOverrun {_ s i w} h ha := (h.updateWatch i (f := fun w => { w with dyn := { w.dyn with
      overruns := advanceOverruns w.dyn.overruns } }) fun _ => rfl).raise _ fun w' hw' => by
    rw [State.owns_updateWatch _ _ (by intro; rfl)]
    rw [State.updateWatch_entry, if_pos rfl, ha.watch] at hw'
    cases hw'
    exact ha.owns
  submit h _ _ _ := h.register (State.register_submit _ _ _ _ _)
  requestEngine h _ _ _ := h.register (State.register_requestEngine _ _ _ _)

theorem State.AttentionOk.leaveDueList {s : State} (h : s.AttentionOk) (i : EntryIndex) : (s.leaveDueList i).AttentionOk :=
  h.of_owns (fun p => by simp [State.leaveDueList, State.updateWatch]; split <;> rfl)
    fun p k ho => (State.owns_leaveDueList s i p k).trans ho

theorem State.AttentionOk.joinDueList {s : State} (h : s.AttentionOk) (i : EntryIndex) (d : DeviceTime) :
    (s.joinDueList i d).AttentionOk :=
  h.of_owns (fun p => by simp [State.joinDueList, State.updateWatch]; split <;> rfl)
    fun p k ho => (State.owns_joinDueList s i d p k).trans ho

theorem State.AttentionOk.expire {s : State} {i : EntryIndex} (h : s.AttentionOk) (l : Lateness) : (s.expire i l).AttentionOk :=
  attentionStarts.expire (j := ()) (fun _ => h.leaveDueList i) fun _ _ _ _ _ _ _ => (h.leaveDueList i).joinDueList i _

theorem State.AttentionOk.endOnce {s : State} (h : s.AttentionOk) (i : EntryIndex) : (s.endOnce i).AttentionOk := by
  refine ((h.leaveDueList i).updateWatch i (by intro; rfl)).setEntry fun p ho => ?_
  obtain ⟨w, hw, howner, -⟩ := (State.owns_iff _ p i).mp ho
  exact ⟨w, hw, howner, .inl rfl⟩

theorem State.AttentionOk.deliver {s : State} (h : s.AttentionOk) (i : EntryIndex) (o : Delivered) :
    (s.deliver i o).AttentionOk := by
  unfold State.deliver
  dsimp only
  split
  · rename_i hs
    refine h.setEntry fun p ho => ?_
    obtain ⟨_, -, -, hd | hd⟩ := (State.owns_iff s p i).mp ho <;> simp [hs] at hd
  · rename_i w hs hw
    refine h.setEntry fun p ho => ?_
    obtain ⟨w', hw', howner, -⟩ := (State.owns_iff s p i).mp ho
    cases hw.symm.trans hw'
    exact ⟨_, rfl, howner, .inl hs⟩
  · rename_i w hs hw
    have h1 : (s.setEntry i { s.entry i with activity := .none, watch := some (w.deliver o s.now).1 }).AttentionOk := by
      refine h.setEntry fun p ho => ?_
      obtain ⟨w', hw', howner, -⟩ := (State.owns_iff s p i).mp ho
      cases hw.symm.trans hw'
      exact ⟨_, rfl, (Watch.deliver_keeps w o s.now).2.1.trans howner, .inr hs⟩
    have h2 := h1.raise (i := i) (w.deliver o s.now).2 fun w' hw' => by
      rw [State.entry_setEntry, if_pos rfl] at hw'
      cases hw'
      rw [State.owns_iff, State.entry_setEntry, if_pos rfl]
      exact ⟨_, rfl, rfl, .inr hs⟩
    unfold State.deliverArmed
    refine attentionStarts.completeHeld i () _ ?_
    dsimp only
    split
    · exact h2.endOnce i
    · exact h2
  · exact h

theorem State.AttentionOk.removeMember {s : State} (h : s.AttentionOk) (p : Port) (i : EntryIndex) :
    (s.removeMember p i).AttentionOk := fun q k hk => by
  rw [State.removeMember, State.owns_setAttention]
  refine h q k fun h0 => hk ?_
  rw [State.removeMember, State.attention_setAttention]
  split
  · rename_i hpq
    by_cases hik : i = k
    · simp [hik]
    · have hv : i.val ≠ k.val := fun hv => hik (Fin.ext hv)
      simpa [hv, hpq] using h0
  · exact h0

/-- A retired watch's owner has no member for it, and no other port has (R37, R156). -/
theorem State.AttentionOk.retireWatch {s : State} {p : Port} {i : EntryIndex} (h : s.AttentionOk) (ho : s.owns p i = true) :
    (s.retireWatch p i).AttentionOk := by
  obtain ⟨w, hw, howner, -⟩ := (State.owns_iff s p i).mp ho
  unfold State.retireWatch
  dsimp only
  generalize hs1 : (((s.leaveDueList i).removeMember p i).clearHeld i).updateWatch i
    (fun w => { w with dyn := { w.dyn with swapPending := false } }) = s1
  have h1 : s1.AttentionOk := by
    rw [← hs1]
    exact (((h.leaveDueList i).removeMember p i).updateWatch i (by intro; rfl)).updateWatch i (by intro; rfl)
  have hnone : ∀ q, (s1.attention q).causes[i] = 0 := fun q => by
    by_contra hq
    have hown : s1.owns q i = s.owns q i := by
      rw [← hs1, State.owns_updateWatch _ _ (by intro; rfl), State.owns_clearHeld, State.removeMember, State.owns_setAttention,
        State.owns_leaveDueList]
    obtain ⟨w', hw', hq', -⟩ := (State.owns_iff s q i).mp (hown ▸ h1 q i hq)
    cases hw.symm.trans hw'
    cases howner.symm.trans hq'
    refine hq ?_
    simp [← hs1, State.removeMember, State.clearHeld, State.updateWatch, hw]
  have hcleared : ∀ {u : State} {e : Entry}, u.register = s1.register → (u.setEntry i e).AttentionOk := fun {u e} hu q k hk => by
    have hc := (State.register_congr hu).2.2.2 q
    rw [State.setEntry_attention, hc] at hk
    have hik : i ≠ k := fun hik => hk (hik ▸ hnone q)
    have hk1 := h1 q k hk
    rw [← State.owns_of_register hu, State.owns_iff] at hk1
    rwa [State.owns_iff, State.entry_setEntry, if_neg hik]
  split
  · exact hcleared rfl
  · exact hcleared (State.register_letGo s1 i)

theorem attentionRegisterKept : RegisterKept fun (_ : Unit) s => s.AttentionOk where
  register h := State.AttentionOk.register h
  clearHeld i _ h := attentionStarts.clearHeld (j := ()) i h
  holdTrigger h ha hp := attentionStarts.holdTrigger (j := ()) h ha hp
  countOverrun h ha := attentionStarts.countOverrun (j := ()) h ha
  expire h _ := h.expire _
  deliver i o h := h.deliver i o
  setHold p h := h.of_owns (fun _ => by simp) fun q i ho => by simpa [State.owns] using ho
  releaseHold := attentionStarts.releaseHold
    (fun p _ _ h => h.of_owns (fun _ => by simp) fun q i ho => by simpa [State.owns] using ho)
    (fun _ _ h => h.of_owns (fun _ => rfl) fun _ _ ho => ho) fun h _ => h.expire _
  setLateness _ _ _ h := h.of_owns (fun _ => rfl) fun _ _ ho => ho
  removeMember p i _ _ h := h.removeMember p i
  resetAttention p _ s h q i hq := by
    rw [State.owns_setAttention]
    rw [State.attention_setAttention] at hq
    split at hq
    · exact absurd (by simp [Attention.afterReset]) hq
    · exact h q i hq
  create h _ hf := h.setEntry fun p ho => by
    obtain ⟨_, -, -, hd | hd⟩ := (State.owns_iff _ p _).mp ho <;> simp [hf] at hd
  modify {_ s i w _ c} h hc _ := by
    have hm : (s.setEntry i { s.entry i with watch := some (w.modified c) }).AttentionOk := h.setEntry fun p ho => by
      obtain ⟨w', hw', howner, hd⟩ := (State.owns_iff s p i).mp ho
      cases hc.watch.symm.trans hw'
      exact ⟨_, rfl, howner, hd⟩
    unfold modifyWatchAt
    dsimp only
    split
    · split
      · unfold State.retestLateness
        split
        · split
          · exact hm.of_owns (fun _ => rfl) fun _ _ ho => ho
          · exact hm
        · exact hm
      · exact h
    · split
      · exact h
      · split
        · exact hm
        · exact h
  writeBank {_ s i w _ k} h _ _ := by
    unfold writeBankAt
    split
    · exact h
    · split
      · exact h.updateWatch i fun w' => by
          show (w'.defn.setBank w'.defn.active.other k).owner = w'.defn.owner
          cases w'.defn.active <;> rfl
      · exact h
  swapBank {_ s i w} h _ := by
    unfold swapBankAt
    split
    · exact h
    · split
      · exact h.updateWatch i (by intro; rfl)
      · exact h.updateWatch i (by intro; rfl)
  armWatch {_ s i w} delay h hs hw := by
    have hset : (s.setEntry i { s.entry i with state := .armed, watch := some w.armed }).AttentionOk := h.setEntry fun p ho => by
      obtain ⟨w', hw', howner, -⟩ := (State.owns_iff s p i).mp ho
      cases hw.symm.trans hw'
      exact ⟨_, rfl, howner, .inr rfl⟩
    unfold State.armWatch
    dsimp only
    split
    · split
      · exact (hset.joinDueList i _).expire _
      · exact hset.joinDueList i _
    · exact hset
  disarmWatch {_ s i w} h _ := by
    unfold State.disarmWatch
    dsimp only
    refine State.AttentionOk.setEntry (State.AttentionOk.register (State.register_letGo _ i)
      (((h.leaveDueList i).updateWatch i (by intro; rfl)).updateWatch i (by intro w; split <;> rfl))) fun p ho => ?_
    obtain ⟨w', hw', howner, -⟩ := (State.owns_iff _ p i).mp ho
    exact ⟨w', hw', howner, .inl rfl⟩
  retireWatch h ho := h.retireWatch ho
  resetOverruns i _ _ h := h.updateWatch i (by intro; rfl)
  powerOn _ p i hi := absurd (by cases p <;> simp [State.attention, State.powerOn, Attention.afterReset]) hi
  inReset _ s _ p i hi := absurd (by cases p <;> simp [State.attention, State.inReset, State.powerOn, Attention.afterReset]) hi

/-- Settles O57: a member is made for the owner alone, and is gone when its watch is retired. -/
theorem attentionInvariantIsKept : Obligations.AttentionInvariantIsKept :=
  fun _ hs _ h => attentionRegisterKept.kept.step (j := ()) h hs

end Sys2Proof.Machine

/-! ### The due list (O58)

Within the resume work the members not yet expired are behind although the scheduler is not held. The invariant is therefore kept
for every set `R` of the entries that may be behind, and each expiry takes its entry out of that set. -/

namespace Sys2Proof.Machine

/-- An ARMED INTERVAL watch, which the due list must hold (R48). -/
def Entry.Scheduled (e : Entry) : Prop := e.state = .armed ∧ ∃ w n, e.watch = some w ∧ w.defn.contract.start = .interval n

def Entry.Timed (e : Entry) : Prop := ∃ w, e.watch = some w ∧ w.dyn.due.isSome = true

/-- The due list is in order, and outside a hold the entries of `R` alone may be behind. -/
structure State.DueWithin (R : EntryIndex → Prop) (s : State) : Prop where
  list : s.DueListOk
  behind : s.isHeld = false → ∀ m ∈ s.dueList, m.lateness ≠ .onTime → R m.entry

theorem State.dueWithin_none (s : State) : s.DueWithin (fun _ => False) ↔ s.DueListOk ∧ s.LatenessOk :=
  ⟨fun h => ⟨h.list, fun hh m hm => not_not.mp (h.behind hh m hm)⟩, fun h => ⟨h.1, fun hh m hm hl => hl (h.2 hh m hm)⟩⟩

theorem Entry.timed_iff_of_watch {e : Entry} {w : Watch} (h : e.watch = some w) : e.Timed ↔ w.dyn.due.isSome = true := by
  simp [Entry.Timed, h]

theorem Entry.scheduled_iff_of_watch {e : Entry} {w : Watch} (h : e.watch = some w) :
    e.Scheduled ↔ e.state = .armed ∧ ∃ n, w.defn.contract.start = .interval n := by
  simp [Entry.Scheduled, h]

theorem Entry.not_scheduled_of_state {e : Entry} (h : e.state ≠ .armed) : ¬ e.Scheduled := fun hs => h hs.1

/-- Scheduling says nothing of the activity. -/
theorem Entry.scheduling_of_resting {e e' : Entry} (h : e'.resting = e.resting) :
    (e'.Scheduled ↔ e.Scheduled) ∧ (e'.Timed ↔ e.Timed) := by
  have hs : e'.resting.Scheduled ↔ e.resting.Scheduled := by rw [h]
  have ht : e'.resting.Timed ↔ e.resting.Timed := by rw [h]
  exact ⟨hs, ht⟩

@[simp] theorem State.leaveDueList_dueList (s : State) (i : EntryIndex) :
    (s.leaveDueList i).dueList = s.dueList.filter fun m => decide (m.entry ≠ i) := rfl

@[simp] theorem State.clearHeld_dueList (s : State) (i : EntryIndex) : (s.clearHeld i).dueList = s.dueList :=
  State.updateWatch_dueList s i _

theorem insertDue_perm (before : DueMember → Bool) (m : DueMember) (l : List DueMember) :
    (insertDue before m l).Perm (m :: l) := by
  obtain ⟨front, back, hl, hi, -⟩ := insertDue_spec before m l
  rw [hi, hl]
  exact List.perm_middle

section
variable {R : EntryIndex → Prop} {s t : State} {i : EntryIndex}

theorem State.DueWithin.mono {R' : EntryIndex → Prop} (h : s.DueWithin R) (hr : ∀ k, R k → R' k) : s.DueWithin R' :=
  ⟨h.list, fun hh m hm hl => hr _ (h.behind hh m hm hl)⟩

/-- What leaves the due list, and every entry scheduled with its due time, stands. -/
theorem State.DueWithin.of_entries (h : s.DueWithin R) (hd : t.dueList = s.dueList) (hheld : t.isHeld = s.isHeld)
    (hsched : ∀ k, (t.entry k).Scheduled ↔ (s.entry k).Scheduled)
    (htimed : ∀ k, (s.entry k).Scheduled → (s.entry k).Timed → (t.entry k).Timed) : t.DueWithin R where
  list :=
    { once := hd ▸ h.list.once
      exactly := fun k => by
        rw [hd]
        exact (h.list.exactly k).trans (hsched k).symm
      present := fun k hk => by
        rw [hd] at hk
        exact htimed k ((h.list.exactly k).mp hk) (h.list.present k hk) }
  behind hh := by
    rw [hd]
    exact h.behind (hheld ▸ hh)

theorem State.DueWithin.of_entry (h : s.DueWithin R) (hd : t.dueList = s.dueList) (hheld : t.isHeld = s.isHeld)
    (hother : ∀ k, i ≠ k → t.entry k = s.entry k) (hsched : (t.entry i).Scheduled ↔ (s.entry i).Scheduled)
    (htimed : (s.entry i).Scheduled → (s.entry i).Timed → (t.entry i).Timed) : t.DueWithin R := by
  refine h.of_entries hd hheld (fun k => ?_) fun k => ?_
  · by_cases hik : i = k
    · exact hik ▸ hsched
    · rw [hother k hik]
  · by_cases hik : i = k
    · exact hik ▸ htimed
    · exact fun _ => (hother k hik).symm ▸ id

theorem State.DueWithin.register (h : t.register = s.register) (hs : s.DueWithin R) : t.DueWithin R := by
  obtain ⟨he, hd, hheld, -⟩ := State.register_congr h
  have hw := State.watch_of_register h
  refine hs.of_entries hd hheld (fun k => ?_) fun k _ => ?_
  · rw [Entry.Scheduled, Entry.Scheduled, hw k, State.state_of_register h k]
  · rw [Entry.Timed, Entry.Timed, hw k]
    exact id

/-- A change of a watch that keeps its start and its due time. -/
theorem State.DueWithin.updateWatch {f : Watch → Watch} (h : s.DueWithin R) (i : EntryIndex)
    (hf : ∀ w, (f w).defn.contract.start = w.defn.contract.start ∧ (f w).dyn.due = w.dyn.due) :
    (s.updateWatch i f).DueWithin R := by
  refine h.of_entry (i := i) (by simp) (by simp [State.updateWatch]; split <;> rfl) (fun k hk => by simp [hk]) ?_ fun _ => ?_ <;>
    rw [State.updateWatch_entry, if_pos rfl] <;> cases hw : (s.entry i).watch <;>
    simp [Entry.Scheduled, Entry.Timed, hw, hf]

/-- Entry `i` leaves the due list. -/
theorem State.DueWithin.leaves (h : s.DueWithin R) (hd : t.dueList = s.dueList.filter fun m => decide (m.entry ≠ i))
    (hheld : t.isHeld = s.isHeld) (hother : ∀ k, i ≠ k → (t.entry k).resting = (s.entry k).resting) (hi : ¬ (t.entry i).Scheduled) :
    t.DueWithin fun k => R k ∧ k ≠ i where
  list :=
    { once := hd ▸ h.list.once.sublist (List.filter_sublist.map _)
      exactly := fun k => by
        by_cases hik : i = k
        · subst hik
          refine iff_of_false (fun hm => ?_) hi
          simp only [hd, List.mem_map, List.mem_filter, decide_eq_true_eq] at hm
          obtain ⟨m, ⟨-, hne⟩, he⟩ := hm
          exact hne he
        · refine Iff.trans ?_ ((h.list.exactly k).trans (Entry.scheduling_of_resting (hother k hik)).1.symm)
          simp only [hd, List.mem_map, List.mem_filter, decide_eq_true_eq]
          exact ⟨fun ⟨m, hm, he⟩ => ⟨m, hm.1, he⟩, fun ⟨m, hm, he⟩ => ⟨m, ⟨hm, fun hmi => hik (hmi.symm.trans he)⟩, he⟩⟩
      present := fun k hk => by
        simp only [hd, List.mem_map, List.mem_filter, decide_eq_true_eq] at hk
        obtain ⟨m, ⟨hm, hne⟩, rfl⟩ := hk
        exact (Entry.scheduling_of_resting (hother _ (Ne.symm hne))).2.mpr (h.list.present _ (List.mem_map_of_mem hm)) }
  behind hh m hm hl := by
    simp only [hd, List.mem_filter, decide_eq_true_eq] at hm
    exact ⟨h.behind (hheld ▸ hh) m hm.1 hl, hm.2⟩

/-- Entry `i` stands in the due list at a new place, ON_TIME. -/
theorem State.DueWithin.joins {before : DueMember → Bool} (h : s.DueWithin R)
    (hd : t.dueList = insertDue before ⟨i, .onTime⟩ (s.dueList.filter fun m => decide (m.entry ≠ i)))
    (hheld : t.isHeld = s.isHeld) (hother : ∀ k, i ≠ k → t.entry k = s.entry k) (hi : (t.entry i).Scheduled)
    (htimed : (t.entry i).Timed) : t.DueWithin fun k => R k ∧ k ≠ i := by
  have hperm := insertDue_perm before ⟨i, .onTime⟩ (s.dueList.filter fun m => decide (m.entry ≠ i))
  rw [← hd] at hperm
  have hmem : ∀ m, m ∈ t.dueList ↔ m = ⟨i, .onTime⟩ ∨ m ∈ s.dueList ∧ m.entry ≠ i := fun m => by simp [hperm.mem_iff]
  have hentry : ∀ k, k ∈ t.dueList.map (·.entry) ↔ k = i ∨ k ∈ s.dueList.map (·.entry) := fun k => by
    simp only [List.mem_map, hmem]
    constructor
    · rintro ⟨m, rfl | hm, rfl⟩
      · exact .inl rfl
      · exact .inr ⟨m, hm.1, rfl⟩
    · rintro (rfl | ⟨m, hm, rfl⟩)
      · exact ⟨_, .inl rfl, rfl⟩
      · by_cases hmi : m.entry = i
        · exact ⟨_, .inl rfl, hmi.symm⟩
        · exact ⟨m, .inr ⟨hm, hmi⟩, rfl⟩
  refine ⟨⟨?_, fun k => ?_, fun k hk => ?_⟩, fun hh m hm hl => ?_⟩
  · rw [(hperm.map _).nodup_iff, List.map_cons, List.nodup_cons]
    exact ⟨by simp, h.list.once.sublist (List.filter_sublist.map _)⟩
  · rw [hentry]
    by_cases hik : i = k
    · exact hik ▸ iff_of_true (.inl rfl) hi
    · rw [hother k hik, or_iff_right (Ne.symm hik)]
      exact h.list.exactly k
  · by_cases hik : i = k
    · exact hik ▸ htimed
    · rw [hother k hik]
      exact h.list.present k (((hentry k).mp hk).resolve_left (Ne.symm hik))
  · obtain rfl | hm := (hmem m).mp hm
    · exact absurd rfl hl
    · exact ⟨h.behind (hheld ▸ hh) m hm.1 hl, hm.2⟩

end

theorem dueStarts : StartsKept fun R s => s.DueWithin R where
  clearHeld i _ _ h := h.updateWatch i fun _ => ⟨rfl, rfl⟩
  holdTrigger h _ _ := h.updateWatch _ fun _ => ⟨rfl, rfl⟩
  countOverrun {R s i w} h _ := (h.updateWatch i (f := fun w => { w with dyn := { w.dyn with
      overruns := advanceOverruns w.dyn.overruns } }) fun _ => ⟨rfl, rfl⟩).of_entries (State.raise_dueList _ i _)
    (State.isHeld_eq_of_surroundings (State.surroundings_raise _ i _)) (fun k => by simp [State.countOverrun])
    fun k _ ht => by simpa [State.countOverrun] using ht
  submit h _ _ _ := h.register (State.register_submit _ _ _ _ _)
  requestEngine h _ _ _ := h.register (State.register_requestEngine _ _ _ _)

section
variable {R : EntryIndex → Prop} {s : State} {i : EntryIndex}

theorem State.DueWithin.not_mem (h : s.DueWithin R) (hi : ¬ (s.entry i).Scheduled) : ∀ m ∈ s.dueList, m.entry ≠ i :=
  fun _ hm he => hi ((h.list.exactly i).mp (he ▸ List.mem_map_of_mem hm))

/-- An entry that is not scheduled changes to one that is not. -/
theorem State.DueWithin.setEntry_unscheduled {e : Entry} (h : s.DueWithin R) (hi : ¬ (s.entry i).Scheduled)
    (he : ¬ e.Scheduled) : (s.setEntry i e).DueWithin R := by
  refine h.of_entry (i := i) rfl rfl (fun k hk => by simp [hk]) ?_ fun hs => absurd hs hi
  rw [State.entry_setEntry, if_pos rfl]
  exact iff_of_false he hi

theorem State.isHeld_leaveDueList (s : State) (i : EntryIndex) : (s.leaveDueList i).isHeld = s.isHeld :=
  State.isHeld_eq_of_surroundings (State.surroundings_leaveDueList s i)

theorem State.isHeld_joinDueList (s : State) (i : EntryIndex) (d : DeviceTime) : (s.joinDueList i d).isHeld = s.isHeld :=
  State.isHeld_eq_of_surroundings (State.surroundings_joinDueList s i d)

theorem State.DueWithin.rescheduled {w : Watch} {n : Nat} (h : s.DueWithin R) (ha : s.Armed i w)
    (hn : w.defn.contract.start = .interval n) (next : DeviceTime) :
    ((s.leaveDueList i).joinDueList i next).DueWithin fun k => R k ∧ k ≠ i := by
  have hw : (((s.leaveDueList i).joinDueList i next).entry i).watch =
      some { w with dyn := { w.dyn with due := some next } } := by simp [ha.watch]
  refine h.joins (before := fun m => (s.leaveDueList i).dueBefore m i next) (by simp [State.joinDueList, State.leaveDueList])
    ?_ (fun k hk => by simp [hk]) ((Entry.scheduled_iff_of_watch hw).mpr ⟨by simp [ha.state], n, hn⟩)
    ((Entry.timed_iff_of_watch hw).mpr rfl)
  rw [State.isHeld_joinDueList, State.isHeld_leaveDueList]

/-- An expired member is behind no more (R50). -/
theorem State.DueWithin.expire (h : s.DueWithin R) (hi : i ∈ s.dueList.map (·.entry)) (l : Lateness) :
    (s.expire i l).DueWithin fun k => R k ∧ k ≠ i := by
  refine dueStarts.expire (fun hn => ?_) fun w n due next ha hs _ => h.rescheduled ha hs next
  obtain ⟨hst, w, n, hw, hstart⟩ := (h.list.exactly i).mp hi
  obtain ⟨w', hw', hd⟩ := h.list.present i hi
  cases hw.symm.trans hw'
  obtain ⟨due, hdue⟩ := Option.isSome_iff_exists.mp hd
  exact absurd hdue (hn w n due ⟨hst, hw⟩ hstart)

theorem State.mem_of_lateness {l : Lateness} (h : s.lateness i = some l) : ∃ m ∈ s.dueList, m.entry = i ∧ m.lateness = l := by
  unfold State.lateness at h
  obtain ⟨m, hm, hl⟩ := Option.map_eq_some_iff.mp h
  exact ⟨m, List.mem_of_find?_eq_some hm, by simpa using List.find?_some hm, hl⟩

theorem Watch.deliver_due (w : Watch) (o : Delivered) (now : DeviceTime) : (w.deliver o now).1.dyn.due = w.dyn.due := by
  have hjudge : ∀ v : Watch, (v.judge o).1.dyn.due = v.dyn.due := fun v => by
    unfold Watch.judge Watch.qualifyTo
    split
    · rfl
    · split
      · rfl
      · split
        · rfl
        · split <;> rfl
  refine (hjudge _).trans ?_
  unfold Watch.takeSwap
  split <;> rfl

theorem State.DueWithin.deliver (h : s.DueWithin R) (i : EntryIndex) (o : Delivered) : (s.deliver i o).DueWithin R := by
  unfold State.deliver
  dsimp only
  split
  · rename_i hs
    exact h.setEntry_unscheduled (Entry.not_scheduled_of_state (by simp [hs])) (Entry.not_scheduled_of_state nofun)
  · rename_i w hs hw
    exact h.setEntry_unscheduled (Entry.not_scheduled_of_state (by simp [hs])) (Entry.not_scheduled_of_state (by simp [hs]))
  · rename_i w hs hw
    have hcontract := (Watch.deliver_keeps w o s.now).1
    have hdue := Watch.deliver_due w o s.now
    have h1 : ((s.setEntry i { s.entry i with activity := .none, watch := some (w.deliver o s.now).1 }).raise i
        (w.deliver o s.now).2).DueWithin R := by
      refine h.of_entry (i := i) (by simp) (State.isHeld_eq_of_surroundings (by simp)) (fun k hk => by simp [hk]) ?_ fun _ ht => ?_
      · simp [Entry.Scheduled, hw, hcontract]
      · rw [Entry.timed_iff_of_watch hw] at ht
        rw [State.raise_entry, State.entry_setEntry, if_pos rfl]
        exact (Entry.timed_iff_of_watch rfl).mpr (hdue ▸ ht)
    unfold State.deliverArmed
    refine dueStarts.completeHeld i R _ ?_
    dsimp only
    split
    · exact (h1.leaves (i := i) (by simp [State.endOnce]) (State.isHeld_eq_of_surroundings (State.surroundings_endOnce _ i))
        (fun k hk => by simp [State.endOnce, hk]) (Entry.not_scheduled_of_state (by simp [State.endOnce]))).mono fun _ hk => hk.1
    · exact h1
  · exact h

theorem State.DueListOk.setLateness (h : s.DueListOk) (i : EntryIndex) (l : Lateness) : (s.setLateness i l).DueListOk := by
  have hmap : (s.setLateness i l).dueList.map (·.entry) = s.dueList.map (·.entry) := by
    simp only [State.setLateness, List.map_map]
    refine List.map_congr_left fun m _ => ?_
    show (if m.entry = i then { m with lateness := l } else m).entry = m.entry
    split <;> rfl
  exact ⟨hmap ▸ h.once, fun k => hmap ▸ h.exactly k, fun k hk => h.present k (hmap ▸ hk)⟩

/-- A member that is behind already may fall behind further. -/
theorem State.DueWithin.setLateness (h : s.DueWithin R) (hl : s.lateness i = some .pastDue) (l : Lateness) :
    (s.setLateness i l).DueWithin R := by
  refine ⟨h.list.setLateness i l, fun hh m hm hlate => ?_⟩
  obtain ⟨x, hx, rfl⟩ := List.mem_map.mp hm
  split at hlate
  · rename_i hxi
    obtain ⟨y, hy, hyi, hyl⟩ := State.mem_of_lateness hl
    rw [if_pos hxi]
    exact (hyi.trans hxi.symm) ▸ h.behind hh y hy (by simp [hyl])
  · rename_i hxi
    rw [if_neg hxi]
    exact h.behind hh x hx hlate

theorem State.DueWithin.modify {w : Watch} {c : Contract} (h : s.DueWithin R) (hc : s.Carries i w) :
    (modifyWatchAt s c i w).1.DueWithin R := by
  unfold modifyWatchAt
  dsimp only
  split
  · rename_i hs
    split
    · rename_i hp
      have hm : (s.setEntry i { s.entry i with watch := some (w.modified c) }).DueWithin R := by
        refine h.of_entry (i := i) rfl rfl (fun k hk => by simp [hk]) ?_ fun _ ht => ?_ <;> rw [State.entry_setEntry, if_pos rfl]
        · rw [Entry.scheduled_iff_of_watch rfl, Entry.scheduled_iff_of_watch hc.watch]
          exact and_congr_right fun _ => Contract.interval_iff_of_permitted hp
        · exact (Entry.timed_iff_of_watch (w := w.modified c) rfl).mpr ((Entry.timed_iff_of_watch hc.watch).mp ht)
      unfold State.retestLateness
      split
      · split
        · exact hm.setLateness ‹_› _
        · exact hm
      · exact hm
    · exact h
  · rename_i hs
    split
    · exact h
    · split
      · exact h.setEntry_unscheduled (Entry.not_scheduled_of_state hs) (Entry.not_scheduled_of_state hs)
      · exact h

theorem State.DueWithin.armWatch {w : Watch} (h : s.DueWithin R) (hs : (s.entry i).state = .defined)
    (delay : Half) : (s.armWatch i w delay).DueWithin R := by
  have hi : ¬ (s.entry i).Scheduled := Entry.not_scheduled_of_state (by simp [hs])
  unfold State.armWatch
  dsimp only
  split
  · rename_i n hstart
    generalize hd : (s.setEntry i { s.entry i with state := .armed, watch := some w.armed }).now + intervalUnits delay.toNat = due
    have hentry : (((s.setEntry i { s.entry i with state := .armed, watch := some w.armed }).joinDueList i due).entry i).watch =
        some { w.armed with dyn := { w.armed.dyn with due := some due } } := by simp
    have hj : ((s.setEntry i { s.entry i with state := .armed, watch := some w.armed }).joinDueList i due).DueWithin R := by
      refine (h.joins (i := i) (t := (s.setEntry i { s.entry i with state := .armed, watch := some w.armed }).joinDueList i due)
        (before := fun m => (s.setEntry i { s.entry i with state := .armed, watch := some w.armed }).dueBefore m i due)
        ?_ (State.isHeld_joinDueList _ i due) (fun k hk => by simp [hk])
        ((Entry.scheduled_iff_of_watch hentry).mpr ⟨by simp, n, hstart⟩) ((Entry.timed_iff_of_watch hentry).mpr rfl)).mono
        fun _ hk => hk.1
      rw [List.filter_eq_self.mpr fun m hm => by simpa using h.not_mem hi m hm]
      simp [State.joinDueList]
    split
    · refine (hj.expire ?_ _).mono fun _ hk => hk.1
      exact (hj.list.exactly i).mpr ((Entry.scheduled_iff_of_watch hentry).mpr ⟨by simp, n, hstart⟩)
    · exact hj
  · rename_i hstart
    refine h.setEntry_unscheduled hi fun hsch => ?_
    obtain ⟨-, n, hn⟩ := (Entry.scheduled_iff_of_watch rfl).mp hsch
    exact hstart n hn

theorem State.DueWithin.disarmWatch (h : s.DueWithin R) (i : EntryIndex) : (s.disarmWatch i).DueWithin R := by
  unfold State.disarmWatch
  dsimp only
  generalize hs1 : ((s.leaveDueList i).clearHeld i).updateWatch i
    (fun w => if w.dyn.swapPending then w.toggleBanks else w) = s1
  obtain ⟨he, hd, hheld, -⟩ := State.register_congr (State.register_letGo s1 i)
  refine (h.leaves (i := i) (t := (s1.letGo i).setEntry i { (s1.letGo i).entry i with state := .defined }) (hd.trans ?_)
    (hheld.trans ?_) (fun k hk => ?_) (Entry.not_scheduled_of_state ?_)).mono
    fun _ hk => hk.1
  · simp [← hs1]
  · simp only [← hs1]
    exact State.isHeld_eq_of_surroundings (by simp)
  · rw [State.entry_setEntry, if_neg hk, he k]
    simp [← hs1, hk]
  · rw [State.entry_setEntry, if_pos rfl]
    nofun

theorem State.DueWithin.retireWatch (h : s.DueWithin R) (p : Port) (i : EntryIndex) : (s.retireWatch p i).DueWithin R := by
  unfold State.retireWatch
  dsimp only
  generalize hs1 : (((s.leaveDueList i).removeMember p i).clearHeld i).updateWatch i
    (fun w => { w with dyn := { w.dyn with swapPending := false } }) = s1
  have hd : s1.dueList = s.dueList.filter fun m => decide (m.entry ≠ i) := by simp [← hs1, State.removeMember]
  have hheld : s1.isHeld = s.isHeld := by
    rw [← hs1]
    exact State.isHeld_eq_of_surroundings (by simp [State.removeMember])
  have hentry : ∀ k, i ≠ k → s1.entry k = s.entry k := fun k hk => by simp [← hs1, hk, State.removeMember]
  have hfreed : ∀ {u : State} {e : Entry}, u.register = s1.register → e.state ≠ .armed → (u.setEntry i e).DueWithin R :=
    fun {u e} hu he => by
      obtain ⟨-, hdu, hhu, -⟩ := State.register_congr hu
      refine (h.leaves (i := i) (t := u.setEntry i e) (hdu.trans hd) (hhu.trans hheld) (fun k hk => ?_) (Entry.not_scheduled_of_state ?_)).mono
        fun _ hk => hk.1
      · rw [State.entry_setEntry, if_neg hk]
        exact ((State.register_congr hu).1 k).trans (congrArg Entry.resting (hentry k hk))
      · rwa [State.entry_setEntry, if_pos rfl]
  split
  · exact hfreed rfl nofun
  · exact hfreed (State.register_letGo s1 i) nofun

/-! The resume work. -/

theorem State.DueListOk.settleLateness (h : s.DueListOk) : s.settleLateness.DueListOk := by
  have hentry : ∀ m, (s.settled m).entry = m.entry := fun m => by
    unfold State.settled
    dsimp only
    split <;> split <;> rfl
  have hmap : s.settleLateness.dueList.map (·.entry) = s.dueList.map (·.entry) := by
    simp [State.settleLateness, Function.comp_def, hentry]
  exact ⟨hmap ▸ h.once, fun k => hmap ▸ h.exactly k, fun k hk => h.present k (hmap ▸ hk)⟩

theorem State.DueWithin.resumeExpiry {before : Claim → State → State} (hb : ∀ c, Keeps (fun R s => State.DueWithin R s) (before c))
    {l : List EntryIndex} (h : s.DueWithin (· ∈ i :: l)) : (s.resumeExpiry before i).DueWithin (· ∈ l) := by
  have hs := hb (.expiry i) (· ∈ i :: l) s h
  have hdrop : ∀ k, k ∈ i :: l ∧ k ≠ i → k ∈ l := fun k hk => (List.mem_cons.mp hk.1).resolve_left hk.2
  unfold State.resumeExpiry
  dsimp only
  generalize before (.expiry i) s = s' at hs ⊢
  have hmem : ∀ {lt}, s'.lateness i = some lt → i ∈ s'.dueList.map (·.entry) := fun hl => by
    obtain ⟨m, hm, rfl, -⟩ := State.mem_of_lateness hl
    exact List.mem_map_of_mem hm
  split
  · rename_i hl
    exact (hs.expire (hmem hl) _).mono hdrop
  · rename_i hl
    exact (hs.expire (hmem hl) _).mono hdrop
  · rename_i hnp hnl
    refine ⟨hs.list, fun hh m hm hlate => hdrop _ ⟨hs.behind hh m hm hlate, fun hmi => ?_⟩⟩
    have hlm := State.lateness_of_mem hs.list.once hm
    rw [hmi] at hlm
    cases hml : m.lateness with
    | onTime => exact hlate hml
    | pastDue => exact hnp (hml ▸ hlm)
    | late => exact hnl (hml ▸ hlm)

theorem State.DueWithin.resumeExpiries {before : Claim → State → State}
    (hb : ∀ c, Keeps (fun R s => State.DueWithin R s) (before c)) (l : List EntryIndex) (h : s.DueWithin (· ∈ l)) :
    (l.foldl (State.resumeExpiry before) s).DueWithin fun _ => False := by
  induction l generalizing s with
  | nil => exact h.mono fun _ hk => List.not_mem_nil hk
  | cons i l ih => exact ih (h.resumeExpiry hb)

theorem State.DueWithin.resumeWork {before : Claim → State → State}
    (hb : ∀ c, Keeps (fun R s => State.DueWithin R s) (before c)) (h : s.DueListOk) :
    (s.resumeWork before).DueWithin fun _ => False := by
  have h0 : s.settleLateness.DueWithin
      (· ∈ (s.settleLateness.dueList.filter fun m => decide (m.lateness ≠ .onTime)).map (·.entry)) :=
    ⟨h.settleLateness, fun _ m hm hl => List.mem_map_of_mem (List.mem_filter.mpr ⟨hm, by simpa using hl⟩)⟩
  have hservices : Keeps (fun R s => State.DueWithin R s) fun s => allEntries.foldl (State.resumeService before) s :=
    Keeps.foldl (fun i R u hu => dueStarts.serviceHeld i R _ (hb _ R u hu)) allEntries
  have h1 := h0.resumeExpiries hb _
  unfold State.resumeWork
  exact hservices _ _ h1

theorem State.DueListOk.setHold (h : s.DueListOk) (p : Port) (v : Bool) : (s.setHold p v).DueListOk :=
  ⟨by simpa using h.once, fun k => by simpa using h.exactly k, fun k hk => by simpa using h.present k (by simpa using hk)⟩

/-- Outside a hold no member is left behind by the resume work (R64). -/
theorem State.DueWithin.releaseHold (h : s.DueWithin R) (p : Port) {before : Claim → State → State}
    (hb : ∀ c, Keeps (fun R s => State.DueWithin R s) (before c)) : (s.releaseHold p before).DueWithin R := by
  unfold State.releaseHold
  dsimp only
  split
  · exact (State.DueWithin.resumeWork hb (h.list.setHold p false)).mono fun _ => False.elim
  · rename_i hlast
    refine ⟨h.list.setHold p false, fun hh m hm => h.behind ?_ m (by simpa using hm)⟩
    have hp : s.hold p = false := by simpa [hh] using hlast
    rw [show s.setHold p false = s by rw [← hp, State.setHold_self]] at hh
    exact hh

end

theorem dueRegisterKept : RegisterKept fun R s => State.DueWithin R s where
  register h := State.DueWithin.register h
  clearHeld := dueStarts.clearHeld
  holdTrigger h ha hp := dueStarts.holdTrigger h ha hp
  countOverrun h ha := dueStarts.countOverrun h ha
  expire {R s i l} h hl := by
    obtain ⟨m, hm, rfl, -⟩ := State.mem_of_lateness hl
    exact (h.expire (List.mem_map_of_mem hm) l).mono fun _ hk => hk.1
  deliver i o h := h.deliver i o
  setHold {R s} p h := ⟨h.list.setHold p true, fun hh => absurd hh (by cases p <;> simp [State.setHold, State.isHeld])⟩
  releaseHold p _ hb _ _ h := h.releaseHold p hb
  setLateness i l hh h := ⟨h.list.setLateness i l, fun hf => absurd (hh.symm.trans hf) nofun⟩
  removeMember p i _ _ h := h.of_entries (by simp [State.removeMember]) (by simp [State.removeMember])
    (fun _ => by simp [State.removeMember]) fun _ _ ht => by simpa [State.removeMember] using ht
  resetAttention p _ _ h := h.of_entries (by simp) (by simp) (fun _ => by simp) fun _ _ ht => by simpa using ht
  create h _ hf := h.setEntry_unscheduled (Entry.not_scheduled_of_state (by simp [hf])) (Entry.not_scheduled_of_state nofun)
  modify h hc _ := h.modify hc
  writeBank {_ s i w _ k} h _ _ := by
    unfold writeBankAt
    split
    · exact h
    · split
      · exact h.updateWatch i fun w' => by
          show (w'.defn.setBank w'.defn.active.other k).contract.start = w'.defn.contract.start ∧ w'.dyn.due = w'.dyn.due
          cases w'.defn.active <;> exact ⟨rfl, rfl⟩
      · exact h
  swapBank {_ s i w} h _ := by
    unfold swapBankAt
    split
    · exact h
    · split
      · exact h.updateWatch i fun _ => ⟨rfl, rfl⟩
      · exact h.updateWatch i fun _ => ⟨rfl, rfl⟩
  armWatch delay h hs _ := h.armWatch hs delay
  disarmWatch h _ := h.disarmWatch _
  retireWatch h _ := h.retireWatch _ _
  resetOverruns i _ _ h := h.updateWatch i fun _ => ⟨rfl, rfl⟩
  powerOn R := ⟨⟨List.nodup_nil, fun i => by simp [State.powerOn, State.entry, Entry.powerOn], nofun⟩, nofun⟩
  inReset R s _ := ⟨⟨List.nodup_nil, fun i => by
    have hi : s.inReset.entry i = (s.entry i).afterReset := mapEntries_get Entry.afterReset s.entries i
    simp only [hi, Entry.afterReset]
    simp [State.inReset, State.powerOn], nofun⟩, nofun⟩

/-- Settles O58: by the invariant with no entry behind. -/
theorem dueListInvariantIsKept : Obligations.DueListInvariantIsKept := fun s hl hb t ht =>
  (State.dueWithin_none t).mp (dueRegisterKept.kept.step (j := fun _ => False) ht ((State.dueWithin_none s).mpr ⟨hl, hb⟩))

end Sys2Proof.Machine

/-! ### Where the work of a watch stands (O59)

What the queues, the converters, the wait list and the engines hold for one watch is its `Work`, and what its entry says of it is its
`Place`. The invariant is one equation between the two for every entry. Within an operation one watch may be exempt, while its work is
let go or delivered, and one engine may not count, whose measurement has been delivered and which is about to be released. -/

namespace Sys2Proof.Machine

structure Place where
  state : EntryState
  activity : Activity
  measure : Option Measure

def Entry.place (e : Entry) : Place := ⟨e.state, e.activity, e.watch.map fun w => w.defn.contract.measure⟩

structure Work where
  waits : ConverterId → List Request
  converts : ConverterId → List Request
  list : Nat
  engines : Nat

def Work.none : Work := ⟨fun _ => [], fun _ => [], 0, 0⟩

/-- The requests of a list that carry watch `k`, without their subscribers. -/
def requestsOf (k : EntryIndex) (l : List Request) : List Request :=
  (l.filter fun r => decide (k ∈ r.subscribers)).map fun r => { r with subscribers := [] }

/-- Where the engine holds watch `k`. -/
def Engine.measures (v : Engine) (k : EntryIndex) : Bool := decide (v.holder = some k) && decide (v.state ≠ .free)

/-- What holds watch `k`, without engine `g`. -/
def State.workOf (s : State) (g : Option EngineIndex) (k : EntryIndex) : Work where
  waits c := requestsOf k (s.converter c).queue
  converts c := requestsOf k (s.converter c).current.toList
  list := s.waitList.count k
  engines := allEngines.countP fun e => (s.engine e).measures k && decide (g ≠ some e)

/-- The request of a measurement at the converter that serves it. -/
def Measure.requests : Option Measure → ConverterId → List Request
  | some (.level n r d), c => if servingConverter n = c then [⟨.ain n, r, d, []⟩] else []
  | _, _ => []

/-- The work that a place names. -/
def Place.work (p : Place) : Work where
  waits := if p.activity = .queued then Measure.requests p.measure else fun _ => []
  converts := if p.activity = .converting then Measure.requests p.measure else fun _ => []
  list := oneIf (p.activity = .awaitingEngine)
  engines := oneIf (p.activity = .measuring)

/-- A place as R10 has it: the activity is one of the state and of the measurement. -/
structure Place.Ok (p : Place) : Prop where
  states : permitted p.state p.activity = true
  carries : p.measure = none ↔ p.state = .free
  timing : p.activity = .awaitingEngine ∨ p.activity = .measuring → ∃ k n pol span, p.measure = some (.timing k n pol span)
  level : p.activity = .queued ∨ p.activity = .converting → ∃ n r d, p.measure = some (.level n r d)

/-- Converters and engines as R81, R82, R121 and R129 have them. -/
structure State.HoldersOk (s : State) : Prop where
  idle : ∀ c, (s.converter c).state = .warmup ∨ (s.converter c).state = .idle → (s.converter c).current = none
  checks : ∀ c, ∀ r ∈ (s.converter c).queue ++ (s.converter c).current.toList, r.isCheck = true → r.subscribers = []
  assigned : ∀ e, (s.engine e).state ≠ .free → (s.engine e).holder.isSome = true ∧ (s.engine e).measurement.isSome = true
  reserved : ∀ e, (s.engine e).state = .reserved → (s.engine e).outcome.isSome = true

/-- Every watch but `x` stands in its place, without engine `g`, which is not FREE; nothing holds `x`. -/
structure State.PlacesBut (s : State) (g : Option EngineIndex) (x : Option EntryIndex) : Prop where
  placed : ∀ k, x ≠ some k → (s.entry k).place.Ok ∧ s.workOf g k = (s.entry k).place.work
  exempt : ∀ k, x = some k → s.workOf g k = .none
  holders : s.HoldersOk
  ghost : ∀ e, g = some e → (s.engine e).state ≠ .free

/-! ### The invariant as one equation -/

theorem Work.ext_iff' {v w : Work} :
    v = w ↔ (∀ c, v.waits c = w.waits c) ∧ (∀ c, v.converts c = w.converts c) ∧ v.list = w.list ∧ v.engines = w.engines := by
  constructor
  · rintro rfl
    exact ⟨fun _ => rfl, fun _ => rfl, rfl, rfl⟩
  · obtain ⟨_, _, _, _⟩ := v
    obtain ⟨_, _, _, _⟩ := w
    rintro ⟨hw, hc, hl, he⟩
    cases (funext hw : _ = _)
    cases (funext hc : _ = _)
    cases hl
    cases he
    rfl

theorem requestsOf_length (k : EntryIndex) (l : List Request) :
    (requestsOf k l).length = l.countP fun r => decide (k ∈ r.subscribers) := by
  rw [requestsOf, List.length_map, List.countP_eq_length_filter]

theorem mem_requestsOf {k : EntryIndex} {l : List Request} {n : AnalogInput} {r : Fin 4} {d : Nat} :
    (⟨.ain n, r, d, []⟩ : Request) ∈ requestsOf k l ↔
      ∃ q ∈ l, k ∈ q.subscribers ∧ q.source = .ain n ∧ q.range = r ∧ q.settle = d := by
  simp only [requestsOf, List.mem_map, List.mem_filter, decide_eq_true_eq, Request.mk.injEq, and_true, and_assoc]

@[simp] theorem requestsOf_append (k : EntryIndex) (l m : List Request) :
    requestsOf k (l ++ m) = requestsOf k l ++ requestsOf k m := by simp [requestsOf]

theorem requestsOf_cons (k : EntryIndex) (r : Request) (l : List Request) :
    requestsOf k (r :: l) = if k ∈ r.subscribers then { r with subscribers := [] } :: requestsOf k l else requestsOf k l := by
  unfold requestsOf
  by_cases h : k ∈ r.subscribers <;> simp [h]

@[simp] theorem requestsOf_nil (k : EntryIndex) : requestsOf k [] = [] := rfl

theorem State.waitingPlaces_eq (s : State) (k : EntryIndex) :
    s.waitingPlaces k = (requestsOf k (s.converter .c0).queue).length + (requestsOf k (s.converter .c1).queue).length := by
  rw [requestsOf_length, requestsOf_length, State.waitingPlaces, List.countP_append]
  rfl

theorem State.currentPlaces_eq (s : State) (k : EntryIndex) :
    s.currentPlaces k =
      (requestsOf k (s.converter .c0).current.toList).length + (requestsOf k (s.converter .c1).current.toList).length := by
  rw [requestsOf_length, requestsOf_length, State.currentPlaces, List.countP_append]
  rfl

theorem State.enginePlaces_eq (s : State) (k : EntryIndex) : s.enginePlaces k = (s.workOf none k).engines := by
  simp [State.enginePlaces, State.workOf, Engine.measures]

/-- One list of two holds one request, where both hold one in all and the first holds it. -/
theorem oneRequest {q0 q1 : List Request} {x : Request} (h : q0.length + q1.length = 1) (hx : x ∈ q0) : q0 = [x] ∧ q1 = [] := by
  have hpos := List.length_pos_of_mem hx
  obtain ⟨y, rfl⟩ := List.length_eq_one_iff.mp (by omega : q0.length = 1)
  exact ⟨by rw [List.mem_singleton.mp hx], List.length_eq_zero_iff.mp (by simpa using h)⟩

/-- Requests at the two converters, one of a level measurement or none. -/
theorem requests_iff {f : ConverterId → List Request} {b : Prop} [Decidable b] {m : Option Measure}
    (hb : b → ∃ n r d, m = some (.level n r d)) :
    (∀ c, f c = (if b then Measure.requests m else fun _ => []) c) ↔
      (f .c0).length + (f .c1).length = oneIf b ∧
        ∀ n r d, m = some (.level n r d) → b → ⟨.ain n, r, d, []⟩ ∈ f (servingConverter n) := by
  by_cases h : b
  · obtain ⟨n, r, d, rfl⟩ := hb h
    simp only [h, if_true, oneIf, decide_true, Measure.requests, Option.some.injEq, Measure.level.injEq, true_implies]
    constructor
    · intro hf
      refine ⟨?_, fun n' r' d' ⟨hn, hr, hd⟩ => ?_⟩
      · rw [hf, hf]
        cases servingConverter n <;> simp
      · subst hn hr hd
        simp [hf]
    · rintro ⟨hlen, hmem⟩ c
      have hx := hmem n r d ⟨rfl, rfl, rfl⟩
      cases hc : servingConverter n with
      | c0 =>
        rw [hc] at hx
        obtain ⟨h0, h1⟩ := oneRequest hlen hx
        cases c <;> simp [h0, h1]
      | c1 =>
        rw [hc] at hx
        obtain ⟨h1, h0⟩ := oneRequest ((Nat.add_comm _ _).trans hlen) hx
        cases c <;> simp [h0, h1]
  · simp only [h, if_false, oneIf, decide_false, Bool.false_eq_true, false_implies, implies_true, and_true, Nat.add_eq_zero_iff,
      List.length_eq_zero_iff]
    exact ⟨fun hf => ⟨hf .c0, hf .c1⟩, fun hf c => by cases c; exacts [hf.1, hf.2]⟩

theorem Entry.place_measure {e : Entry} {m : Measure} : e.place.measure = some m ↔ ∃ w, e.watch = some w ∧ w.defn.contract.measure = m := by
  simp [Entry.place]

theorem Entry.place_carries (e : Entry) : e.place.measure = none ↔ e.watch = none := by simp [Entry.place]

theorem State.PlacesOk.holders {s : State} (h : s.PlacesOk) : s.HoldersOk := ⟨h.idle, h.checks, h.assigned, h.reserved⟩

theorem State.PlacesOk.placeOk {s : State} (h : s.PlacesOk) (k : EntryIndex) : (s.entry k).place.Ok where
  states := h.states k
  carries := (Entry.place_carries _).trans (h.carries k)
  timing ha := by
    obtain ⟨w, kind, n, pol, span, hw, hm⟩ := h.timing k ha
    exact ⟨kind, n, pol, span, Entry.place_measure.mpr ⟨w, hw, hm⟩⟩
  level ha := by
    obtain ⟨w, n, r, d, hw, hm⟩ := h.level k ha
    exact ⟨n, r, d, Entry.place_measure.mpr ⟨w, hw, hm⟩⟩

theorem State.PlacesOk.work {s : State} (h : s.PlacesOk) (k : EntryIndex) : s.workOf none k = (s.entry k).place.work := by
  have hok := h.placeOk k
  refine Work.ext_iff'.mpr ⟨(requests_iff fun ha => hok.level (.inl ha)).mpr ⟨?_, fun n r d hm ha => ?_⟩,
    (requests_iff fun ha => hok.level (.inr ha)).mpr ⟨?_, fun n r d hm ha => ?_⟩, h.list k, ?_⟩
  · exact (State.waitingPlaces_eq s k).symm.trans (h.waiting k)
  · obtain ⟨w, hw, hm'⟩ := Entry.place_measure.mp hm
    exact mem_requestsOf.mpr ((h.served k w n r d hw hm').1 ha)
  · exact (State.currentPlaces_eq s k).symm.trans (h.current k)
  · obtain ⟨w, hw, hm'⟩ := Entry.place_measure.mp hm
    obtain ⟨q, hq, hits⟩ := (h.served k w n r d hw hm').2 ha
    exact mem_requestsOf.mpr ⟨q, Option.mem_toList.mpr hq, hits⟩
  · exact (State.enginePlaces_eq s k).symm.trans (h.engine k)

theorem State.PlacesBut.placesOk {s : State} (h : s.PlacesBut none none) : s.PlacesOk := by
  have hok := fun k => (h.placed k nofun).1
  have hwork := fun k => Work.ext_iff'.mp (h.placed k nofun).2
  have hwaits := fun k => (requests_iff fun ha => (hok k).level (.inl ha)).mp (hwork k).1
  have hconverts := fun k => (requests_iff fun ha => (hok k).level (.inr ha)).mp (hwork k).2.1
  exact
    { waiting := fun k => (State.waitingPlaces_eq s k).trans (hwaits k).1
      current := fun k => (State.currentPlaces_eq s k).trans (hconverts k).1
      list := fun k => (hwork k).2.2.1
      engine := fun k => (State.enginePlaces_eq s k).trans (hwork k).2.2.2
      states := fun k => (hok k).states
      carries := fun k => (Entry.place_carries _).symm.trans (hok k).carries
      timing := fun k ha => by
        obtain ⟨kind, n, pol, span, hm⟩ := (hok k).timing ha
        obtain ⟨w, hw, hm'⟩ := Entry.place_measure.mp hm
        exact ⟨w, kind, n, pol, span, hw, hm'⟩
      level := fun k ha => by
        obtain ⟨n, r, d, hm⟩ := (hok k).level ha
        obtain ⟨w, hw, hm'⟩ := Entry.place_measure.mp hm
        exact ⟨w, n, r, d, hw, hm'⟩
      served := fun k w n r d hw hm => by
        have hp : (s.entry k).place.measure = some (.level n r d) := Entry.place_measure.mpr ⟨w, hw, hm⟩
        refine ⟨fun ha => mem_requestsOf.mp ((hwaits k).2 n r d hp ha), fun ha => ?_⟩
        obtain ⟨q, hq, hits⟩ := mem_requestsOf.mp ((hconverts k).2 n r d hp ha)
        exact ⟨q, Option.mem_toList.mp hq, hits⟩
      idle := h.holders.idle
      checks := h.holders.checks
      assigned := h.holders.assigned
      reserved := h.holders.reserved }

theorem State.placesOk_iff (s : State) : s.PlacesOk ↔ s.PlacesBut none none :=
  ⟨fun h => ⟨fun k _ => ⟨h.placeOk k, h.work k⟩, nofun, h.holders, nofun⟩, fun h => h.placesOk⟩

/-! ### What leaves the work -/

/-- A state with all blanked but its converters, engines and wait list. -/
def State.work (s : State) : State :=
  { State.powerOn resetPins with
    conv0 := s.conv0.core
    conv1 := s.conv1.core
    engines := s.engines
    waitList := s.waitList }

section
variable (s : State)

theorem State.work_of_core {t : State} (h : t.core = s.core) : t.work = s.work := (congrArg State.work h :)

@[simp] theorem State.work_setEntry (i : EntryIndex) (e : Entry) : (s.setEntry i e).work = s.work := rfl

@[simp] theorem State.work_setAttention (p : Port) (a : Attention) : (s.setAttention p a).work = s.work := by cases p <;> rfl

@[simp] theorem State.work_setHold (p : Port) (b : Bool) : (s.setHold p b).work = s.work := by cases p <;> rfl

@[simp] theorem State.work_setLine (l : TrgLine) (v : TrgContext) : (s.setLine l v).work = s.work := by cases l <;> rfl

@[simp] theorem State.work_updateWatch (i : EntryIndex) (f : Watch → Watch) : (s.updateWatch i f).work = s.work := by
  unfold State.updateWatch
  split <;> simp

@[simp] theorem State.work_raise (i : EntryIndex) (cs : CauseSet) : (s.raise i cs).work = s.work := by
  unfold State.raise
  split <;> simp [State.addCauses]

@[simp] theorem State.work_removeMember (p : Port) (i : EntryIndex) : (s.removeMember p i).work = s.work := by
  simp [State.removeMember]

@[simp] theorem State.work_countOverrun (i : EntryIndex) : (s.countOverrun i).work = s.work := by simp [State.countOverrun]

@[simp] theorem State.work_leaveDueList (i : EntryIndex) : (s.leaveDueList i).work = s.work := State.work_updateWatch s i _

@[simp] theorem State.work_joinDueList (i : EntryIndex) (d : DeviceTime) : (s.joinDueList i d).work = s.work :=
  State.work_updateWatch s i _

@[simp] theorem State.work_clearHeld (i : EntryIndex) : (s.clearHeld i).work = s.work := State.work_updateWatch s i _

@[simp] theorem State.work_endOnce (i : EntryIndex) : (s.endOnce i).work = s.work := by simp [State.endOnce]

@[simp] theorem State.work_markConverting (l : List EntryIndex) : (s.markConverting l).work = s.work := by
  unfold State.markConverting
  induction l generalizing s with
  | nil => rfl
  | cons i l ih =>
    rw [List.foldl_cons, ih]
    rfl

end

section
variable {s t : State} {g : Option EngineIndex} {x : Option EntryIndex} {i : EntryIndex}

theorem State.work_congr (h : t.work = s.work) :
    (∀ c, (t.converter c).core = (s.converter c).core) ∧ t.engines = s.engines ∧ t.waitList = s.waitList := by
  refine ⟨fun c => ?_, (congrArg State.engines h :), (congrArg State.waitList h :)⟩
  cases c
  · exact (congrArg State.conv0 h :)
  · exact (congrArg State.conv1 h :)

theorem State.engine_of_work (h : t.work = s.work) (e : EngineIndex) : t.engine e = s.engine e := by
  simp only [State.engine, (State.work_congr h).2.1]

theorem State.workOf_congr (h : t.work = s.work) (g : Option EngineIndex) (k : EntryIndex) : t.workOf g k = s.workOf g k := by
  obtain ⟨hc, he, hl⟩ := State.work_congr h
  have hq := fun c => congrArg Converter.queue (hc c)
  have hcur := fun c => congrArg Converter.current (hc c)
  simp only [Converter.core] at hq hcur
  simp only [State.workOf, State.engine, hq, hcur, he, hl]

theorem State.HoldersOk.of_work (h : t.work = s.work) (hs : s.HoldersOk) : t.HoldersOk := by
  obtain ⟨hc, he, -⟩ := State.work_congr h
  have hst := fun c => congrArg Converter.state (hc c)
  have hq := fun c => congrArg Converter.queue (hc c)
  have hcur := fun c => congrArg Converter.current (hc c)
  simp only [Converter.core] at hst hq hcur
  have heng : ∀ e, t.engine e = s.engine e := fun e => by simp only [State.engine, he]
  exact ⟨fun c => by rw [hst, hcur]; exact hs.idle c, fun c => by rw [hq, hcur]; exact hs.checks c,
    fun e => by rw [heng]; exact hs.assigned e, fun e => by rw [heng]; exact hs.reserved e⟩

/-- What leaves the work, and every entry in its place. -/
theorem State.PlacesBut.of_work (hs : s.PlacesBut g x) (h : t.work = s.work) (he : ∀ k, (t.entry k).place = (s.entry k).place) :
    t.PlacesBut g x where
  placed k hk := by
    rw [he, State.workOf_congr h]
    exact hs.placed k hk
  exempt k hk := (State.workOf_congr h g k).trans (hs.exempt k hk)
  holders := hs.holders.of_work h
  ghost e hg := by
    rw [State.engine_of_work h]
    exact hs.ghost e hg

/-- An entry changes to a place of the same work. -/
theorem State.PlacesBut.of_entry (hs : s.PlacesBut g x) (h : t.work = s.work) (hother : ∀ k, i ≠ k → (t.entry k).place = (s.entry k).place)
    (hok : (t.entry i).place.Ok) (hw : (t.entry i).place.work = (s.entry i).place.work) : t.PlacesBut g x := by
  refine ⟨fun k hk => ?_, fun k hk => (State.workOf_congr h g k).trans (hs.exempt k hk), hs.holders.of_work h, fun e hg => ?_⟩
  · by_cases hik : i = k
    · subst hik
      exact ⟨hok, (State.workOf_congr h g i).trans ((hs.placed i hk).2.trans hw.symm)⟩
    · rw [hother k hik, State.workOf_congr h]
      exact hs.placed k hk
  · rw [State.engine_of_work h]
    exact hs.ghost e hg

/-- The exempt watch, which nothing holds, comes to a place without work. -/
theorem State.PlacesBut.settle (hs : s.PlacesBut g (some i)) (h : t.work = s.work)
    (hother : ∀ k, i ≠ k → (t.entry k).place = (s.entry k).place) (hok : (t.entry i).place.Ok)
    (hw : (t.entry i).place.work = .none) : t.PlacesBut g none := by
  refine ⟨fun k _ => ?_, nofun, hs.holders.of_work h, fun e hg => ?_⟩
  · rw [State.workOf_congr h]
    by_cases hik : i = k
    · subst hik
      exact ⟨hok, (hs.exempt i rfl).trans hw.symm⟩
    · rw [hother k hik]
      exact hs.placed k fun hx => hik (Option.some.inj hx)
  · rw [State.engine_of_work h]
    exact hs.ghost e hg

/-- A change of a watch that keeps its measurement. -/
theorem State.PlacesBut.updateWatch {f : Watch → Watch} (hs : s.PlacesBut g x) (i : EntryIndex)
    (hf : ∀ w, (f w).defn.contract.measure = w.defn.contract.measure) : (s.updateWatch i f).PlacesBut g x := by
  refine hs.of_work (State.work_updateWatch s i f) fun k => ?_
  rw [State.updateWatch_entry]
  split
  · rename_i hik
    subst hik
    cases hw : (s.entry i).watch <;> simp [Entry.place, hw, hf]
  · rfl

end

theorem Place.work_none {p : Place} (h : p.activity = .none) : p.work = .none := by simp [Place.work, Work.none, oneIf, h]

end Sys2Proof.Machine

/-! ### Operations on the work -/

namespace Sys2Proof.Machine

section
variable {s t : State} {g : Option EngineIndex} {x : Option EntryIndex} {i : EntryIndex}

/-- One entry and its work change together. -/
theorem State.PlacesBut.change {g' : Option EngineIndex} (hs : s.PlacesBut g x) (i : EntryIndex) (hx : x ≠ some i)
    (hother : ∀ k, i ≠ k → (t.entry k).place = (s.entry k).place ∧ t.workOf g' k = s.workOf g k) (hok : (t.entry i).place.Ok)
    (hw : t.workOf g' i = (t.entry i).place.work) (hh : t.HoldersOk) (hg : ∀ e, g' = some e → (t.engine e).state ≠ .free) :
    t.PlacesBut g' x := by
  refine ⟨fun k hk => ?_, fun k hk => ?_, hh, hg⟩
  · by_cases hik : i = k
    · exact hik ▸ ⟨hok, hw⟩
    · rw [(hother k hik).1, (hother k hik).2]
      exact hs.placed k hk
  · rw [(hother k fun hik => hx (hik ▸ hk)).2]
    exact hs.exempt k hk

/-! Queues. -/

theorem requestsOf_join {q q' : List Request} {n : AnalogInput} {r : Fin 4} {d : Nat} (h : joinQueue i n r d q = some q') :
    (∀ k, i ≠ k → requestsOf k q' = requestsOf k q) ∧
      (requestsOf i q = [] → requestsOf i q' = [⟨.ain n, r, d, []⟩]) := by
  obtain ⟨front, y, back, rfl, rfl, hsource, rfl, rfl⟩ := joinQueue_eq_some h
  refine ⟨fun k hk => ?_, fun hnil => ?_⟩
  · simp [requestsOf_cons, mem_insertIndex, Ne.symm hk]
  · rw [requestsOf_append, List.append_eq_nil_iff, requestsOf_cons] at hnil
    obtain ⟨hfront, hback⟩ := hnil
    split at hback
    · cases hback
    · rename_i hy
      rw [requestsOf_append, requestsOf_cons, hfront, hback, if_pos (mem_insertIndex.mpr (.inl rfl)), List.nil_append, hsource]

theorem requestsOf_without_one (i k : EntryIndex) (r : Request) :
    requestsOf k (r.without i).toList = if i = k then [] else requestsOf k [r] := by
  have hkeep : k ∈ r.subscribers.filter (fun j => decide (j ≠ i)) ↔ k ∈ r.subscribers ∧ i ≠ k := by
    simp [ne_comm]
  unfold Request.without
  dsimp only
  split
  · split
    · rename_i hnil
      rw [hnil] at hkeep
      by_cases hik : i = k
      · simp [hik]
      · have hk : k ∉ r.subscribers := fun hk => List.not_mem_nil (hkeep.mpr ⟨hk, hik⟩)
        simp [requestsOf_cons, hik, hk]
    · by_cases hik : i = k
      · simp [requestsOf_cons, hik]
      · simp [requestsOf_cons, hik, Ne.symm hik]
  · rename_i hr
    by_cases hik : i = k
    · simp [requestsOf_cons, ← hik, hr]
    · simp [hik]

theorem requestsOf_without (i k : EntryIndex) (q : List Request) :
    requestsOf k (q.filterMap (Request.without i)) = if i = k then [] else requestsOf k q := by
  induction q with
  | nil => simp
  | cons r q ih =>
    have hcons : (r :: q).filterMap (Request.without i) = (r.without i).toList ++ q.filterMap (Request.without i) := by
      rw [List.filterMap_cons]
      cases r.without i <;> rfl
    rw [hcons, requestsOf_append, ih, requestsOf_without_one]
    split
    · rfl
    · exact (requestsOf_append k [r] q).symm

/-! Converters. -/

theorem State.workOf_setConverter (s : State) (c : ConverterId) (v : Converter) (g : Option EngineIndex) (k : EntryIndex) :
    (s.setConverter c v).workOf g k =
      { s.workOf g k with
        waits := fun c' => if c = c' then requestsOf k v.queue else (s.workOf g k).waits c'
        converts := fun c' => if c = c' then requestsOf k v.current.toList else (s.workOf g k).converts c' } := by
  refine Work.ext_iff'.mpr ⟨fun c' => ?_, fun c' => ?_, ?_, ?_⟩
  · simp only [State.workOf, State.converter_setConverter]
    split <;> rfl
  · simp only [State.workOf, State.converter_setConverter]
    split <;> rfl
  · cases c <;> rfl
  · cases c <;> rfl

theorem State.HoldersOk.setConverter {c : ConverterId} {v : Converter} (hs : s.HoldersOk)
    (hidle : v.state = .warmup ∨ v.state = .idle → v.current = none)
    (hchecks : ∀ r ∈ v.queue ++ v.current.toList, r.isCheck = true → r.subscribers = []) : (s.setConverter c v).HoldersOk := by
  refine ⟨fun c' => ?_, fun c' => ?_, fun e => ?_, fun e => ?_⟩
  · rw [State.converter_setConverter]
    split
    · exact hidle
    · exact hs.idle c'
  · rw [State.converter_setConverter]
    split
    · exact hchecks
    · exact hs.checks c'
  · rw [State.setConverter_engine]
    exact hs.assigned e
  · rw [State.setConverter_engine]
    exact hs.reserved e

/-- A converter changes, but neither its requests of any watch nor what it is at work on for any. -/
theorem State.PlacesBut.setConverter {c : ConverterId} {v : Converter} (hs : s.PlacesBut g x)
    (hq : ∀ k, requestsOf k v.queue = requestsOf k (s.converter c).queue)
    (hc : ∀ k, requestsOf k v.current.toList = requestsOf k (s.converter c).current.toList)
    (hidle : v.state = .warmup ∨ v.state = .idle → v.current = none)
    (hchecks : ∀ r ∈ v.queue ++ v.current.toList, r.isCheck = true → r.subscribers = []) : (s.setConverter c v).PlacesBut g x := by
  have hwork : ∀ k, (s.setConverter c v).workOf g k = s.workOf g k := fun k => by
    rw [State.workOf_setConverter]
    refine Work.ext_iff'.mpr ⟨fun c' => ?_, fun c' => ?_, rfl, rfl⟩ <;> dsimp only <;> split
    · rename_i hcc
      exact hcc ▸ hq k
    · rfl
    · rename_i hcc
      exact hcc ▸ hc k
    · rfl
  refine ⟨fun k hk => ?_, fun k hk => (hwork k).trans (hs.exempt k hk), hs.holders.setConverter hidle hchecks, fun e hg => ?_⟩
  · rw [hwork, State.setConverter_entry]
    exact hs.placed k hk
  · rw [State.setConverter_engine]
    exact hs.ghost e hg

/-! Engines. -/

theorem State.engines_setEngine (s : State) (e : EngineIndex) (v : Engine) (g : Option EngineIndex) (k : EntryIndex) :
    ((s.setEngine e v).workOf g k).engines + oneIf ((s.engine e).measures k && decide (g ≠ some e)) =
      (s.workOf g k).engines + oneIf (v.measures k && decide (g ≠ some e)) := by
  have h : ∀ f, (s.setEngine e v).engine f = if e = f then v else s.engine f := fun f => State.engine_setEngine ..
  simp only [State.workOf, allEngines, List.countP_cons, List.countP_nil, h, oneIf]
  fin_cases e <;> simp <;> omega

theorem State.ghost_engines (s : State) (e : EngineIndex) (k : EntryIndex) :
    (s.workOf none k).engines = (s.workOf (some e) k).engines + oneIf ((s.engine e).measures k) := by
  simp only [State.workOf, allEngines, List.countP_cons, List.countP_nil, oneIf]
  fin_cases e <;> simp <;> omega

theorem State.HoldersOk.setEngine {e : EngineIndex} {v : Engine} (hs : s.HoldersOk)
    (ha : v.state ≠ .free → v.holder.isSome = true ∧ v.measurement.isSome = true)
    (hr : v.state = .reserved → v.outcome.isSome = true) : (s.setEngine e v).HoldersOk := by
  refine ⟨fun c => ?_, fun c => ?_, fun f => ?_, fun f => ?_⟩
  · rw [State.setEngine_converter]
    exact hs.idle c
  · rw [State.setEngine_converter]
    exact hs.checks c
  · rw [State.engine_setEngine]
    split
    · exact ha
    · exact hs.assigned f
  · rw [State.engine_setEngine]
    split
    · exact hr
    · exact hs.reserved f

@[simp] theorem Engine.measures_assigned (i k : EntryIndex) (m : Measurement) (y : Nat) :
    (Engine.assigned i m y).measures k = decide (i = k) := by
  unfold Engine.measures Engine.assigned
  split <;> simp

@[simp] theorem Engine.measures_freed (k : EntryIndex) : Engine.freed.measures k = false := rfl

theorem Engine.measures_of_free {v : Engine} (h : v.state = .free) (k : EntryIndex) : v.measures k = false := by
  simp [Engine.measures, h]

theorem State.workOf_setEngine (s : State) (e : EngineIndex) (v : Engine) (g : Option EngineIndex) (k : EntryIndex) :
    (s.setEngine e v).workOf g k = { s.workOf g k with engines := ((s.setEngine e v).workOf g k).engines } := rfl

theorem Engine.assigned_not_reserved (i : EntryIndex) (m : Measurement) (y : Nat) : (Engine.assigned i m y).state ≠ .reserved := by
  unfold Engine.assigned
  dsimp only
  split <;> nofun

theorem State.HoldersOk.assigned_engine {e : EngineIndex} (hs : s.HoldersOk) (i : EntryIndex) (m : Measurement) (y : Nat) :
    (s.setEngine e (Engine.assigned i m y)).HoldersOk :=
  hs.setEngine (fun _ => ⟨rfl, rfl⟩) fun hr => absurd hr (Engine.assigned_not_reserved i m y)

theorem Engine.assigned_not_free (i : EntryIndex) (m : Measurement) (y : Nat) : (Engine.assigned i m y).state ≠ .free := by
  unfold Engine.assigned
  dsimp only
  split <;> nofun

end

end Sys2Proof.Machine

namespace Sys2Proof.Machine

section
variable {s t : State} {g : Option EngineIndex} {x : Option EntryIndex} {i : EntryIndex}

/-! ### Starts -/

/-- A watch begins work: its activity changes from NONE to `a`. -/
theorem State.Armed.place_begin {w : Watch} {a : Activity} (ha : s.Armed i w) :
    ({ s.entry i with activity := a } : Entry).place = ⟨.armed, a, some w.defn.contract.measure⟩ := by
  simp [Entry.place, ha.state, ha.watch]

theorem Place.ok_level {a : Activity} {n : AnalogInput} {r : Fin 4} {d : Nat} (h : a = .queued ∨ a = .converting) :
    (Place.mk .armed a (some (.level n r d))).Ok where
  states := rfl
  carries := by simp
  timing := by rintro (rfl | rfl) <;> simp at h
  level _ := ⟨n, r, d, rfl⟩

theorem Place.ok_timing {a : Activity} {k : TimingKind} {n : TimingInput} {pol : Polarity} {span : Nat}
    (h : a = .awaitingEngine ∨ a = .measuring) : (Place.mk .armed a (some (.timing k n pol span))).Ok where
  states := rfl
  carries := by simp
  timing _ := ⟨k, n, pol, span, rfl⟩
  level := by rintro (rfl | rfl) <;> simp at h

theorem State.PlacesBut.idle_work (hs : s.PlacesBut g none) (hn : (s.entry i).activity = .none) : s.workOf g i = .none :=
  (hs.placed i nofun).2.trans (Place.work_none hn)

/-- A queue takes in watch `i` on a request of its own measurement (R87). -/
theorem State.PlacesBut.enqueue {w : Watch} {n : AnalogInput} {r : Fin 4} {d : Nat} {q : List Request} (hs : s.PlacesBut g none)
    (ha : s.Armed i w) (hn : (s.entry i).activity = .none) (hm : w.defn.contract.measure = .level n r d)
    (hother : ∀ k, i ≠ k → requestsOf k q = requestsOf k (s.converter (servingConverter n)).queue)
    (hi : requestsOf i q = [⟨.ain n, r, d, []⟩])
    (hchecks : ∀ y ∈ q, y.isCheck = true → y.subscribers = []) :
    ((s.setConverter (servingConverter n) { s.converter (servingConverter n) with queue := q }).setActivity i .queued).PlacesBut
      g none := by
  have hidle := Work.ext_iff'.mp (hs.idle_work hn)
  have hold := hs.holders.checks (servingConverter n)
  refine hs.change i nofun (fun k hk => ⟨by simp [hk], ?_⟩) ?_ ?_ ?_ fun e he => ?_
  · refine (State.workOf_congr (State.work_setEntry _ _ _) g k).trans ?_
    rw [State.workOf_setConverter, Work.ext_iff']
    refine ⟨fun c => ?_, fun c => ?_, rfl, rfl⟩
    · dsimp only
      split
      · rename_i hc
        rw [hother k hk, hc]
        rfl
      · rfl
    · dsimp only
      split
      · rename_i hc
        rw [hc]
        rfl
      · rfl
  · rw [State.setActivity_entry, if_pos rfl, State.setConverter_entry, ha.place_begin, hm]
    exact Place.ok_level (.inl rfl)
  · refine (State.workOf_congr (State.work_setEntry _ _ _) g i).trans ?_
    rw [State.setActivity_entry, if_pos rfl, State.setConverter_entry, ha.place_begin, hm, State.workOf_setConverter, Work.ext_iff']
    refine ⟨fun c => ?_, fun c => ?_, hidle.2.2.1, hidle.2.2.2⟩
    · simp only [Place.work, Measure.requests, if_true, hi]
      split
      · rfl
      · exact hidle.1 c
    · simp only [Place.work]
      split
      · rename_i hc
        rw [hc]
        exact hidle.2.1 c
      · exact hidle.2.1 c
  · refine State.HoldersOk.of_work (s := s.setConverter _ _) rfl (hs.holders.setConverter (hs.holders.idle _) fun y hy => ?_)
    rcases List.mem_append.mp hy with hy | hy
    · exact hchecks y hy
    · exact hold y (List.mem_append.mpr (.inr hy))
  · rw [show ∀ u : State, (u.setActivity i .queued).engine e = u.engine e from fun _ => rfl, State.setConverter_engine]
    exact hs.ghost e he

theorem State.PlacesBut.submit {w : Watch} {n : AnalogInput} {r : Fin 4} {d : Nat} (hs : s.PlacesBut g none) (ha : s.Armed i w)
    (hn : (s.entry i).activity = .none) (hm : w.defn.contract.measure = .level n r d) : (s.submit i n r d).1.PlacesBut g none := by
  have hnil : requestsOf i (s.converter (servingConverter n)).queue = [] :=
    (Work.ext_iff'.mp (hs.idle_work hn)).1 (servingConverter n)
  have hold := hs.holders.checks (servingConverter n)
  unfold State.submit
  dsimp only
  split
  · rename_i q hq
    obtain ⟨hother, hi⟩ := requestsOf_join hq
    refine hs.enqueue ha hn hm hother (hi hnil) fun y hy hcheck => ?_
    obtain ⟨front, z, back, hqueue, rfl, hsource, -⟩ := joinQueue_eq_some hq
    rw [hqueue] at hold
    simp only [List.mem_append, List.mem_cons] at hy hold
    rcases hy with hy | rfl | hy
    · exact hold y (.inl (.inl hy)) hcheck
    · simp [Request.isCheck, hsource] at hcheck
    · exact hold y (.inl (.inr (.inr hy))) hcheck
  · split
    · refine hs.enqueue ha hn hm (fun k hk => ?_) ?_ fun y hy hcheck => ?_
      · simp [requestsOf_cons, Ne.symm hk]
      · simp [requestsOf_cons, hnil]
      · rcases List.mem_append.mp hy with hy | hy
        · exact hold y (List.mem_append.mpr (.inl hy)) hcheck
        · rw [List.mem_singleton.mp hy] at hcheck
          simp [Request.isCheck] at hcheck
    · exact hs

theorem State.HoldersOk.withWaitList (h : s.HoldersOk) (l : List EntryIndex) : State.HoldersOk { s with waitList := l } :=
  ⟨h.idle, h.checks, h.assigned, h.reserved⟩

theorem State.PlacesBut.requestEngine {w : Watch} {kind : TimingKind} {n : TimingInput} {pol : Polarity} {span : Nat}
    (hs : s.PlacesBut g none) (ha : s.Armed i w) (hn : (s.entry i).activity = .none)
    (hm : w.defn.contract.measure = .timing kind n pol span) (m : Measurement) (y : Nat) :
    (s.requestEngine i m y).PlacesBut g none := by
  have hidle := hs.idle_work hn
  unfold State.requestEngine
  split
  · rename_i e he
    have hfree : (s.engine e).state = .free := by simpa using List.find?_some he
    have hwork : ∀ k, (s.assignEngine e i m y).workOf g k =
        { s.workOf g k with engines := (s.workOf g k).engines + oneIf (decide (i = k)) } := fun k => by
      have hcount := s.engines_setEngine e (Engine.assigned i m y) g k
      have hge : g ≠ some e := fun hg => hs.ghost e hg hfree
      simp only [Engine.measures_of_free hfree, Engine.measures_assigned, hge, ne_eq, not_false_eq_true, decide_true,
        Bool.and_true, oneIf, Bool.false_eq_true, if_false, Nat.add_zero] at hcount
      refine (State.workOf_setEngine s e (Engine.assigned i m y) g k).trans ?_
      rw [hcount]
      rfl
    refine hs.change i nofun (fun k hk => ⟨by simp [State.assignEngine, hk], ?_⟩) ?_ ?_ ?_ fun f hf => ?_
    · rw [hwork]
      simp [hk, oneIf]
    · simp only [State.assignEngine, State.setActivity_entry, if_true, State.setEngine_entry]
      rw [ha.place_begin, hm]
      exact Place.ok_timing (.inr rfl)
    · rw [hwork, hidle]
      simp only [State.assignEngine, State.setActivity_entry, if_true, State.setEngine_entry]
      rw [ha.place_begin, hm]
      simp [Place.work, Work.none, oneIf]
    · exact State.HoldersOk.of_work (s := s.setEngine e (Engine.assigned i m y)) rfl (hs.holders.assigned_engine i m y)
    · rw [show (s.assignEngine e i m y).engine f = (s.setEngine e (Engine.assigned i m y)).engine f from rfl,
        State.engine_setEngine]
      split
      · exact Engine.assigned_not_free i m y
      · exact hs.ghost f hf
  · have hwork : ∀ k, ({ s with waitList := s.waitList ++ [i] }.setActivity i .awaitingEngine).workOf g k =
        { s.workOf g k with list := (s.workOf g k).list + if i = k then 1 else 0 } := fun k => by
      show { s.workOf g k with list := (s.waitList ++ [i]).count k } = _
      rw [List.count_append, List.count_singleton]
      simp [State.workOf]
    have hentry : ∀ k, ({ s with waitList := s.waitList ++ [i] }.setActivity i .awaitingEngine).entry k =
        if i = k then { s.entry i with activity := .awaitingEngine } else s.entry k := fun k => State.setActivity_entry ..
    refine hs.change i nofun (fun k hk => ⟨by rw [hentry, if_neg hk], ?_⟩) ?_ ?_ ?_ fun f hf => ?_
    · rw [hwork]
      simp [hk]
    · rw [hentry, if_pos rfl, ha.place_begin, hm]
      exact Place.ok_timing (.inl rfl)
    · rw [hwork, hidle, hentry]
      simp only [if_true]
      rw [ha.place_begin]
      simp [Place.work, Work.none, oneIf]
    · exact State.HoldersOk.of_work (s := { s with waitList := s.waitList ++ [i] }) rfl (hs.holders.withWaitList _)
    · exact hs.ghost f hf

theorem placesStarts : StartsKept fun g s => State.PlacesBut s g none where
  clearHeld i _ _ h := h.updateWatch i fun _ => rfl
  holdTrigger h _ _ := h.updateWatch _ fun _ => rfl
  countOverrun {_ _ i _} h _ := (h.updateWatch i (f := fun w => { w with dyn := { w.dyn with
    overruns := advanceOverruns w.dyn.overruns } }) fun _ => rfl).of_work (State.work_raise _ i _) fun k =>
      congrArg Entry.place (State.raise_entry _ i k _)
  submit h ha hn hm := h.submit ha hn hm
  requestEngine h ha hn hm := h.requestEngine ha hn hm _ _

/-! ### The release of an engine -/

theorem Place.Ok.measurement {e : Entry} (h : e.place.Ok) (ha : e.activity = .awaitingEngine ∨ e.activity = .measuring) :
    ∃ m y, e.watch.bind Watch.measurement = some (m, y) := by
  obtain ⟨k, n, pol, span, hm⟩ := h.timing ha
  obtain ⟨w, hw, hm'⟩ := Entry.place_measure.mp hm
  exact ⟨⟨k, n, pol⟩, span * 1000, by simp [hw, Watch.measurement, hm']⟩

theorem Place.work_list {p : Place} (h : p.work.list ≠ 0) : p.activity = .awaitingEngine := by
  by_contra hn
  exact h (by simp [Place.work, oneIf, hn])

theorem Place.work_engines {p : Place} (h : p.work.engines ≠ 0) : p.activity = .measuring := by
  by_contra hn
  exact h (by simp [Place.work, oneIf, hn])

/-- A watch that awaits an engine is ARMED, and may measure (R10). -/
theorem Place.Ok.to_measuring {p : Place} (h : p.Ok) (ha : p.activity = .awaitingEngine) :
    ({ p with activity := .measuring } : Place).Ok where
  states := by
    have hs := h.states
    rw [ha] at hs
    cases hst : p.state <;> simp [permitted, hst] at hs ⊢
  carries := h.carries
  timing _ := h.timing (.inl ha)
  level := by simp

/-- A watch of the wait list awaits an engine, and stands there once. -/
theorem State.PlacesBut.of_listed (hs : s.PlacesBut g x) {k : EntryIndex} (hk : k ∈ s.waitList) :
    x ≠ some k ∧ (s.entry k).activity = .awaitingEngine := by
  have hcount : (s.workOf g k).list ≠ 0 := (List.count_pos_iff.mpr hk).ne'
  have hx : x ≠ some k := fun hx => by
    rw [hs.exempt k hx] at hcount
    exact hcount rfl
  exact ⟨hx, Place.work_list (p := (s.entry k).place) ((hs.placed k hx).2 ▸ hcount)⟩

/-- An engine that counts no more goes to the head of the wait list, or is FREE (R130). -/
theorem State.PlacesBut.releaseEngine {e : EngineIndex} (hs : s.PlacesBut (some e) x) : (s.releaseEngine e).PlacesBut none x := by
  have hmeasure : ∀ k ∈ s.waitList, (s.entry k).watch.bind Watch.measurement ≠ none := fun k hk => by
    obtain ⟨hx, ha⟩ := hs.of_listed hk
    obtain ⟨m, y, hm⟩ := (hs.placed k hx).1.measurement (.inl ha)
    simp [hm]
  have hengines : ∀ (v : Engine) k, ((s.setEngine e v).workOf none k).engines =
      (s.workOf (some e) k).engines + oneIf (v.measures k) := fun v k => by
    have hset := s.engines_setEngine e v (some e) k
    have hghost := (s.setEngine e v).ghost_engines e k
    simp only [ne_eq, not_true_eq_false, decide_false, Bool.and_false, oneIf, Bool.false_eq_true, if_false, Nat.add_zero] at hset
    rw [hghost, hset, State.engine_setEngine, if_pos rfl]
  obtain ⟨hnone, ht⟩ | ⟨passed, j, rest, m, y, hlist, hpassed, hm, ht⟩ := s.releaseEngine_cases e
  · have hnil : s.waitList = [] := List.eq_nil_iff_forall_not_mem.mpr fun k hk => hmeasure k hk (hnone k hk)
    rw [ht, ← hnil]
    have hwork : ∀ k, (s.setEngine e Engine.freed).workOf none k = s.workOf (some e) k := fun k => by
      rw [State.workOf_setEngine, hengines]
      simp [oneIf, State.workOf]
    exact ⟨fun k hk => (hwork k).symm ▸ hs.placed k hk, fun k hk => (hwork k).trans (hs.exempt k hk),
      hs.holders.setEngine (absurd rfl) nofun, nofun⟩
  · have hnil : passed = [] := List.eq_nil_iff_forall_not_mem.mpr fun k hk => hmeasure k (by simp [hlist, hk]) (hpassed k hk)
    subst hnil
    obtain ⟨hx, ha⟩ := hs.of_listed (k := j) (by simp [hlist])
    obtain ⟨hok, hwj⟩ := hs.placed j hx
    have hentry : ∀ k, (s.releaseEngine e).entry k = if j = k then { s.entry j with activity := .measuring } else s.entry k :=
      fun k => by
        rw [ht]
        exact State.setActivity_entry ..
    have hwork : ∀ k, (s.releaseEngine e).workOf none k =
        { s.workOf (some e) k with list := rest.count k, engines := (s.workOf (some e) k).engines + oneIf (decide (j = k)) } :=
      fun k => by
        have hk := hengines (Engine.assigned j m y) k
        rw [Engine.measures_assigned] at hk
        rw [ht, ← hk]
        rfl
    have hcount : ∀ k, (s.workOf (some e) k).list = rest.count k + if j = k then 1 else 0 := fun k => by
      show s.waitList.count k = _
      rw [hlist, List.nil_append, List.count_cons]
      simp
    refine hs.change j hx (fun k hk => ⟨by rw [hentry, if_neg hk], ?_⟩) ?_ ?_ ?_ nofun
    · have hc := hcount k
      rw [if_neg hk, Nat.add_zero] at hc
      rw [hwork, ← hc]
      simp [hk, oneIf]
    · rw [hentry, if_pos rfl]
      exact hok.to_measuring ha
    · have hone := congrArg Work.list hwj
      rw [hcount, if_pos rfl, Place.work, show (s.entry j).place.activity = .awaitingEngine from ha] at hone
      have hzero : rest.count j = 0 := by simpa [oneIf] using hone
      rw [hwork, hentry, hwj, hzero]
      simp [Place.work, Entry.place, ha, oneIf]
    · rw [ht]
      exact State.HoldersOk.of_work (s := { s with waitList := rest }.setEngine e (Engine.assigned j m y)) rfl
        ((hs.holders.withWaitList rest).assigned_engine j m y)

end

end Sys2Proof.Machine

namespace Sys2Proof.Machine

section
variable {s t : State} {g : Option EngineIndex} {x : Option EntryIndex} {i : EntryIndex}

/-! ### Watches let go -/

/-- What holds watch `i` lets it go. -/
theorem State.PlacesBut.lets_go {g' : Option EngineIndex} (hs : s.PlacesBut g none)
    (hother : ∀ k, i ≠ k → (t.entry k).place = (s.entry k).place ∧ t.workOf g' k = s.workOf g k) (hi : t.workOf g' i = .none)
    (hh : t.HoldersOk) (hg : ∀ e, g' = some e → (t.engine e).state ≠ .free) : t.PlacesBut g' (some i) := by
  refine ⟨fun k hk => ?_, fun k hk => Option.some.inj hk ▸ hi, hh, hg⟩
  have hik : i ≠ k := fun hik => hk (hik ▸ rfl)
  rw [(hother k hik).1, (hother k hik).2]
  exact hs.placed k nofun

/-- The engine of a watch counts no more for it. -/
theorem State.PlacesBut.ghost_of_holder {e : EngineIndex} (hs : s.PlacesBut none none) (hi : (s.engine e).holder = some i)
    (hf : (s.engine e).state ≠ .free) : s.PlacesBut (some e) (some i) := by
  have hm : (s.engine e).measures i = true := by simp [Engine.measures, hi, hf]
  have hghost := s.ghost_engines e
  have hact : (s.entry i).activity = .measuring := by
    refine Place.work_engines (p := (s.entry i).place) ?_
    rw [← (hs.placed i nofun).2, hghost, hm]
    simp [oneIf]
  refine hs.lets_go (fun k hk => ⟨rfl, ?_⟩) ?_ hs.holders fun f hfe => Option.some.inj hfe ▸ hf
  · have hk' : (s.engine e).measures k = false := by simp [Engine.measures, hi, hk]
    have hc := hghost k
    rw [hk', oneIf, if_neg nofun, Nat.add_zero] at hc
    exact Work.ext_iff'.mpr ⟨fun _ => rfl, fun _ => rfl, rfl, hc.symm⟩
  · have hw := Work.ext_iff'.mp (hs.placed i nofun).2
    have hc := hghost i
    rw [hm, hw.2.2.2] at hc
    simp only [Place.work, show (s.entry i).place.activity = .measuring from hact] at hw hc
    refine Work.ext_iff'.mpr ⟨hw.1, hw.2.1, hw.2.2.1, ?_⟩
    simpa [oneIf, Work.none] using hc.symm

/-- Nothing of an exempt watch's entry counts. -/
theorem State.PlacesBut.of_exempt_entry (hs : s.PlacesBut g (some i)) (h : t.work = s.work)
    (hother : ∀ k, i ≠ k → (t.entry k).place = (s.entry k).place) : t.PlacesBut g (some i) := by
  refine ⟨fun k hk => ?_, fun k hk => (State.workOf_congr h g k).trans (hs.exempt k hk), hs.holders.of_work h, fun e hg => ?_⟩
  · rw [hother k fun hik => hk (hik ▸ rfl), State.workOf_congr h]
    exact hs.placed k hk
  · rw [State.engine_of_work h]
    exact hs.ghost e hg

/-- No engine but `g` is RESERVED for watch `i`. -/
def State.NoneReserved (s : State) (g : Option EngineIndex) (i : EntryIndex) : Prop :=
  ∀ e, g ≠ some e → (s.engine e).holder = some i → (s.engine e).state ≠ .reserved

theorem State.PlacesBut.letGo (hs : s.PlacesBut none none) (hr : s.NoneReserved none i) (hc : (s.entry i).activity ≠ .converting) :
    (s.letGo i).PlacesBut none (some i) := by
  obtain ⟨hok, hw⟩ := hs.placed i nofun
  have hwork := Work.ext_iff'.mp hw
  unfold State.letGo
  split
  · rename_i ha
    exact hs.lets_go (fun k hk => ⟨rfl, rfl⟩) (hs.idle_work ha) hs.holders nofun
  · rename_i ha
    exact absurd ha hc
  · rename_i ha
    simp only [Place.work, show (s.entry i).place.activity = .queued from ha] at hwork
    have hq : ∀ c, ((s.unsubscribe i).converter c).queue = (s.converter c).queue.filterMap (Request.without i) ∧
        ((s.unsubscribe i).converter c).current = (s.converter c).current ∧
        ((s.unsubscribe i).converter c).state = (s.converter c).state := fun c => by cases c <;> exact ⟨rfl, rfl, rfl⟩
    have hwo : ∀ k, (s.unsubscribe i).workOf none k =
        { s.workOf none k with waits := fun c => if i = k then [] else requestsOf k (s.converter c).queue } := fun k => by
      refine Work.ext_iff'.mpr ⟨fun c => ?_, fun c => ?_, rfl, rfl⟩
      · simp only [State.workOf, (hq c).1, requestsOf_without]
      · simp only [State.workOf, (hq c).2.1]
    have hh : (s.unsubscribe i).HoldersOk := by
      refine ⟨fun c => ?_, fun c r hr => ?_, hs.holders.assigned, hs.holders.reserved⟩
      · rw [(hq c).2.1, (hq c).2.2]
        exact hs.holders.idle c
      · rw [(hq c).1, (hq c).2.1] at hr
        rcases List.mem_append.mp hr with hr | hr
        · obtain ⟨q, hq', hqr⟩ := List.mem_filterMap.mp hr
          have hold := hs.holders.checks c q (List.mem_append.mpr (.inl hq'))
          unfold Request.without at hqr
          dsimp only at hqr
          split at hqr
          · split at hqr
            · cases hqr
            · cases hqr
              exact fun hcheck => by
                rw [hold hcheck]
                rfl
          · cases hqr
            exact hold
        · exact hs.holders.checks c r (List.mem_append.mpr (.inr hr))
    refine State.PlacesBut.of_exempt_entry (s := s.unsubscribe i) (hs.lets_go (fun k hk => ⟨rfl, ?_⟩) ?_ hh nofun) rfl
      fun k hk => by rw [State.setActivity_entry, if_neg hk]
    · rw [hwo]
      simp only [hk, if_false]
      rfl
    · rw [hwo]
      refine Work.ext_iff'.mpr ⟨fun c => by simp [Work.none], hwork.2.1, hwork.2.2.1, hwork.2.2.2⟩
  · rename_i ha
    simp only [Place.work, show (s.entry i).place.activity = .awaitingEngine from ha] at hwork
    refine State.PlacesBut.of_exempt_entry (s := s.leaveWaitList i) (hs.lets_go (fun k hk => ⟨rfl, ?_⟩) ?_
      (hs.holders.withWaitList _) nofun) rfl fun k hk => by rw [State.setActivity_entry, if_neg hk]
    · refine Work.ext_iff'.mpr ⟨fun _ => rfl, fun _ => rfl, ?_, rfl⟩
      exact List.count_filter (by simp [Ne.symm hk])
    · refine Work.ext_iff'.mpr ⟨hwork.1, hwork.2.1, ?_, hwork.2.2.2⟩
      show (s.waitList.filter fun j => decide (j ≠ i)).count i = 0
      exact List.count_eq_zero.mpr (by simp)
  · rename_i ha
    have hengine : (s.workOf none i).engines ≠ 0 := by
      rw [hwork.2.2.2]
      simp [Place.work, Entry.place, ha, oneIf]
    obtain ⟨e, -, he⟩ := List.countP_pos_iff.mp (Nat.pos_of_ne_zero hengine)
    simp only [ne_eq, reduceCtorEq, not_false_eq_true, decide_true, Bool.and_true, Engine.measures, Bool.and_eq_true,
      decide_eq_true_eq] at he
    have hsome : (s.engineOf i).isSome = true := by
      rw [State.engineOf, List.find?_isSome]
      exact ⟨e, by fin_cases e <;> decide, by simp [he.1, he.2, hr e nofun he.1]⟩
    obtain ⟨f, hf⟩ := Option.isSome_iff_exists.mp hsome
    have hfe := List.find?_some hf
    simp only [Bool.and_eq_true, decide_eq_true_eq] at hfe
    have hreleased := (hs.ghost_of_holder hfe.1.1 hfe.1.2).releaseEngine
    rw [State.abandon, hf]
    exact State.PlacesBut.of_exempt_entry (s := s.releaseEngine f) hreleased rfl
      fun k hk => by rw [State.setActivity_entry, if_neg hk]

/-! ### Deliveries -/

theorem Place.ok_none {st : EntryState} {m : Option Measure} (h : st = .defined ∨ st = .armed) (hm : m ≠ none) :
    (Place.mk st .none m).Ok where
  states := by rcases h with rfl | rfl <;> rfl
  carries := by rcases h with rfl | rfl <;> simp [hm]
  timing := by simp
  level := by simp

theorem Place.ok_free : (Place.mk .free .none none).Ok where
  states := rfl
  carries := by simp
  timing := by simp
  level := by simp

/-- A delivery to the exempt watch leaves it in its place (R95, R137). -/
theorem State.PlacesBut.deliver (hs : s.PlacesBut g (some i)) (hok : (s.entry i).place.Ok) (ha : (s.entry i).activity ≠ .none)
    (o : Delivered) : (s.deliver i o).PlacesBut g none := by
  unfold State.deliver
  dsimp only
  split
  · refine hs.settle (State.work_setEntry _ _ _) (fun k hk => by simp [hk]) ?_ ?_ <;> rw [State.entry_setEntry, if_pos rfl]
    · exact Place.ok_free
    · exact Place.work_none rfl
  · rename_i w hst hw
    refine hs.settle (State.work_setEntry _ _ _) (fun k hk => by simp [hk]) ?_ ?_ <;> rw [State.entry_setEntry, if_pos rfl]
    · exact Place.ok_none (.inl hst) (by simp)
    · exact Place.work_none rfl
  · rename_i w hst hw
    unfold State.deliverArmed
    refine placesStarts.completeHeld i g _ ?_
    dsimp only
    generalize hs1 : (s.setEntry i { s.entry i with activity := .none, watch := some (w.deliver o s.now).1 }).raise i
      (w.deliver o s.now).2 = s1
    have hwork : s1.work = s.work := by simp [← hs1]
    have hother : ∀ k, i ≠ k → s1.entry k = s.entry k := fun k hk => by simp [← hs1, hk]
    have hi : s1.entry i = { s.entry i with activity := .none, watch := some (w.deliver o s.now).1 } := by simp [← hs1]
    split
    · refine hs.settle ((State.work_endOnce s1 i).trans hwork) (fun k hk => by simp [State.endOnce, hk, hother k hk]) ?_ ?_
      · have hplace : ((s1.endOnce i).entry i).place = ⟨.defined, .none, some (w.deliver o s.now).1.defn.contract.measure⟩ := by
          simp [State.endOnce, hi, Entry.place]
        rw [hplace]
        exact Place.ok_none (.inl rfl) nofun
      · exact Place.work_none (by simp [State.endOnce, hi, Entry.place])
    · refine hs.settle hwork (fun k hk => by rw [hother k hk]) ?_ ?_ <;> rw [hi]
      · exact Place.ok_none (.inr hst) (by simp)
      · exact Place.work_none rfl
  · rename_i hretiring hdefined harmed
    exfalso
    have hst := hok.states
    cases hs0 : (s.entry i).state with
    | free => simp [Entry.place, permitted, hs0, ha] at hst
    | retiring => exact hretiring hs0
    | defined =>
      cases hw : (s.entry i).watch with
      | none => simpa [Entry.place, hs0, hw] using hok.carries
      | some w => exact hdefined w hs0 hw
    | armed =>
      cases hw : (s.entry i).watch with
      | none => simpa [Entry.place, hs0, hw] using hok.carries
      | some w => exact harmed w hs0 hw

theorem State.PlacesBut.deliverFromEngine (hs : s.PlacesBut none none) (e : EngineIndex) :
    (s.deliverFromEngine e).PlacesBut none none := by
  unfold State.deliverFromEngine
  dsimp only
  split
  · rename_i i o hst hi ho
    have hf : (s.engine e).state ≠ .free := by simp [hst]
    have hact : (s.entry i).activity ≠ .none := fun hn => by
      have hidle := congrArg Work.engines (hs.idle_work hn)
      rw [s.ghost_engines e] at hidle
      simp [Engine.measures, hi, hf, oneIf, Work.none] at hidle
    exact ((hs.ghost_of_holder hi hf).deliver (hs.placed i nofun).1 hact o).releaseEngine
  · exact hs

/-! ### Converters -/

theorem Measure.requests_eq_cons {m : Option Measure} {c : ConverterId} {r : Request} {l : List Request}
    (h : Measure.requests m c = r :: l) :
    l = [] ∧ (∃ n d k, m = some (.level n d k)) ∧ ∀ c', Measure.requests m c' = if c = c' then [r] else [] := by
  unfold Measure.requests at h
  split at h
  · rename_i n d k
    split at h
    · rename_i hc
      cases h
      subst hc
      exact ⟨rfl, ⟨n, d, k, rfl⟩, fun c' => rfl⟩
    · cases h
  · cases h

/-- A QUEUED watch is ARMED, and may convert (R10). -/
theorem Place.Ok.to_converting {p : Place} (h : p.Ok) (ha : p.activity = .queued) :
    ({ p with activity := .converting } : Place).Ok where
  states := by
    have hs := h.states
    rw [ha] at hs
    cases hst : p.state <;> simp [permitted, hst] at hs ⊢
  carries := h.carries
  timing := by simp
  level _ := h.level (.inl ha)

/-- A converter that delivers to nobody takes its oldest waiting request (R83, R84, R95). -/
theorem State.PlacesBut.takeNext {c : ConverterId} (hs : s.PlacesBut none none)
    (hnobody : ∀ k, requestsOf k (s.converter c).current.toList = []) : (s.takeNext c).PlacesBut none none := by
  unfold State.takeNext
  dsimp only
  split
  · exact hs.setConverter (fun _ => rfl) (fun k => (hnobody k).symm) (fun _ => rfl) fun r hr =>
      hs.holders.checks c r (List.mem_append.mpr (.inl (by simpa using hr)))
  · rename_i r rest hq
    generalize hv : ({ s.converter c with
      state := if r.settle = 0 then .converting else .settling
      queue := rest
      current := some r
      timer := if r.settle = 0 then Config.conversionMicros else r.settle * Config.unitMicros
      delivering := none } : Converter) = v
    have hvq : v.queue = rest ∧ v.current = some r ∧ v.state ≠ .warmup ∧ v.state ≠ .idle := by
      subst hv
      refine ⟨rfl, rfl, ?_, ?_⟩ <;> dsimp only <;> split <;> nofun
    obtain ⟨hvq, hvc, hwarm, hidle⟩ := hvq
    have hchecks := hs.holders.checks c
    rw [hq] at hchecks
    have hwork : ∀ k, ((s.setConverter c v).markConverting r.subscribers).workOf none k =
        { s.workOf none k with
          waits := fun c' => if c = c' then requestsOf k rest else (s.workOf none k).waits c'
          converts := fun c' => if c = c' then requestsOf k [r] else (s.workOf none k).converts c' } := fun k => by
      rw [State.workOf_congr (State.work_markConverting _ _), State.workOf_setConverter, hvq, hvc]
      rfl
    obtain ⟨hin, hout, -⟩ := State.markConverting_spec r.subscribers (s.setConverter c v)
    refine ⟨fun k _ => ?_, nofun, ?_, nofun⟩
    · obtain ⟨hok, hw⟩ := hs.placed k nofun
      have hwk := Work.ext_iff'.mp hw
      have hwaits := hwk.1 c
      simp only [State.workOf, hq, requestsOf_cons] at hwaits
      by_cases hk : k ∈ r.subscribers
      · rw [if_pos hk] at hwaits
        have hact : (s.entry k).activity = .queued := by
          by_contra hn
          simp [Place.work, show (s.entry k).place.activity ≠ .queued from hn] at hwaits
        rw [Place.work, show (s.entry k).place.activity = .queued from hact] at hwaits hwk
        obtain ⟨hrest, hlevel, hrequests⟩ := Measure.requests_eq_cons hwaits.symm
        rw [hin k hk, State.setConverter_entry]
        refine ⟨hok.to_converting hact, ?_⟩
        rw [hwork, Work.ext_iff']
        refine ⟨fun c' => ?_, fun c' => ?_, hwk.2.2.1, hwk.2.2.2⟩
        · dsimp only
          split
          · exact hrest
          · rename_i hc
            refine (hwk.1 c').trans ((hrequests c').trans ?_)
            rw [if_neg hc]
            rfl
        · refine Eq.trans ?_ (hrequests c').symm
          dsimp only
          split
          · rw [requestsOf_cons, if_pos hk, requestsOf_nil]
          · exact hwk.2.1 c'
      · rw [if_neg hk] at hwaits
        rw [hout k hk, State.setConverter_entry]
        refine ⟨hok, ?_⟩
        rw [hwork, Work.ext_iff']
        refine ⟨fun c' => ?_, fun c' => ?_, hwk.2.2.1, hwk.2.2.2⟩
        · dsimp only
          split
          · rename_i hc
            exact hc ▸ hwaits
          · exact hwk.1 c'
        · dsimp only
          split
          · rename_i hc
            rw [requestsOf_cons, if_neg hk, requestsOf_nil, ← hwk.2.1 c', ← hc]
            exact (hnobody k).symm
          · exact hwk.2.1 c'
    · refine State.HoldersOk.of_work (State.work_markConverting _ _) (hs.holders.setConverter ?_ fun q hq' => ?_)
      · rintro (h | h)
        · exact absurd h hwarm
        · exact absurd h hidle
      · rw [hvq, hvc] at hq'
        refine hchecks q ?_
        simp only [Option.toList_some, List.mem_append, List.mem_cons] at hq' ⊢
        tauto

theorem State.current_of_work (h : t.work = s.work) (c : ConverterId) : (t.converter c).current = (s.converter c).current :=
  (congrArg Converter.current ((State.work_congr h).1 c) :)

/-- A start leaves what a converter is at work on. -/
theorem currentStarts (c : ConverterId) : StartsKept fun (j : Option Request) s => (s.converter c).current = j where
  clearHeld i _ s h := (State.current_of_work (State.work_clearHeld s i) c).trans h
  holdTrigger h _ _ := (State.current_of_work (State.work_updateWatch _ _ _) c).trans h
  countOverrun h _ := (State.current_of_work (State.work_countOverrun _ _) c).trans h
  submit {_ s i _ n r d} h _ _ _ := by
    have hset : ∀ q, ((s.setConverter (servingConverter n) { s.converter (servingConverter n) with queue := q }).converter c).current =
        (s.converter c).current := fun q => by
      rw [State.converter_setConverter]
      split
      · rename_i hc
        rw [hc]
      · rfl
    unfold State.submit
    dsimp only
    split
    · exact (hset _).trans h
    · split
      · exact (hset _).trans h
      · exact h
  requestEngine h _ _ _ := by
    unfold State.requestEngine
    split
    · exact h
    · exact h

theorem State.deliver_current (s : State) (i : EntryIndex) (o : Delivered) (c : ConverterId) :
    ((s.deliver i o).converter c).current = (s.converter c).current := by
  unfold State.deliver
  dsimp only
  split
  · rfl
  · rfl
  · unfold State.deliverArmed
    refine (currentStarts c).completeHeld i _ _ ?_
    dsimp only
    split
    · exact State.current_of_work (by simp) c
    · exact State.current_of_work (by simp) c
  · rfl

/-- A delivery of a converter reaches one subscriber; the converter goes on after the last (R95). -/
theorem State.PlacesBut.deliverFromConverter (hs : s.PlacesBut none none) (c : ConverterId) (i : EntryIndex) :
    (s.deliverFromConverter c i).PlacesBut none none := by
  unfold State.deliverFromConverter
  dsimp only
  split
  · rename_i r o hr ho
    split
    · rename_i hi
      generalize hrest : (r.subscribers.filter fun j => decide (j ≠ i)) = rest
      have hmem : ∀ k, k ∈ rest ↔ k ∈ r.subscribers ∧ i ≠ k := fun k => by simp [← hrest, ne_comm]
      have hwi := Work.ext_iff'.mp (hs.placed i nofun).2
      have hci := hwi.2.1 c
      simp only [State.workOf, hr, Option.toList_some, requestsOf_cons, if_pos hi, requestsOf_nil] at hci
      have hact : (s.entry i).activity = .converting := by
        by_contra hn
        simp [Place.work, show (s.entry i).place.activity ≠ .converting from hn] at hci
      rw [Place.work, show (s.entry i).place.activity = .converting from hact] at hwi hci
      obtain ⟨-, -, hrequests⟩ := Measure.requests_eq_cons hci.symm
      have hcheck : r.isCheck = true → r.subscribers = [] := hs.holders.checks c r (by simp [hr])
      have hbut : (s.setConverter c { s.converter c with current := some { r with subscribers := rest } }).PlacesBut none (some i) := by
        refine hs.lets_go (fun k hk => ⟨by simp, ?_⟩) ?_ (hs.holders.setConverter (fun hidle => ?_) fun q hq hqc => ?_) nofun
        · rw [State.workOf_setConverter]
          refine Work.ext_iff'.mpr ⟨fun c' => ?_, fun c' => ?_, rfl, rfl⟩
          · dsimp only
            split
            · rename_i hc
              exact hc ▸ rfl
            · rfl
          · dsimp only
            split
            · rename_i hc
              subst hc
              simp [State.workOf, hr, requestsOf_cons, hmem, hk]
            · rfl
        · rw [State.workOf_setConverter]
          refine Work.ext_iff'.mpr ⟨fun c' => ?_, fun c' => ?_, hwi.2.2.1, hwi.2.2.2⟩
          · dsimp only
            split
            · rename_i hc
              exact hc ▸ hwi.1 c
            · exact hwi.1 c'
          · dsimp only
            split
            · simp [requestsOf_cons, hmem, Work.none]
            · rename_i hc
              refine (hwi.2.1 c').trans ((hrequests c').trans ?_)
              rw [if_neg hc]
              rfl
        · exact absurd ((hs.holders.idle c hidle).symm.trans hr) nofun
        · simp only [Option.toList_some, List.mem_append, List.mem_singleton] at hq
          rcases hq with hq | rfl
          · exact hs.holders.checks c q (List.mem_append.mpr (.inl hq)) hqc
          · rw [hcheck hqc] at hi
            cases hi
      have hok : ((s.setConverter c { s.converter c with current := some { r with subscribers := rest } }).entry i).place.Ok := by
        rw [State.setConverter_entry]
        exact (hs.placed i nofun).1
      have hd := hbut.deliver hok (by rw [State.setConverter_entry, hact]; nofun) o
      split
      · rename_i hnil
        refine hd.takeNext fun k => ?_
        rw [State.deliver_current, State.converter_setConverter, if_pos rfl]
        simp [requestsOf_cons, hnil]
      · exact hd
    · exact hs
  · exact hs

/-! ### What DISARM and RETIRE find -/

/-- A start assigns engines that are not RESERVED. -/
theorem noneReservedStarts : StartsKept fun (j : Option EngineIndex × EntryIndex) s => s.NoneReserved j.1 j.2 where
  clearHeld i j s h e he := State.engine_of_work (State.work_clearHeld s i) e ▸ h e he
  holdTrigger {_ s i _} h _ _ e he := by
    rw [State.engine_of_work (State.work_updateWatch s i _)]
    exact h e he
  countOverrun {_ s i _} h _ e he := by
    rw [State.engine_of_work (State.work_countOverrun s i)]
    exact h e he
  submit {_ s i _ n r d} h _ _ _ e he := by
    rw [show (s.submit i n r d).1.engine e = s.engine e by
      unfold State.submit
      dsimp only
      split
      · exact State.setConverter_engine ..
      · split
        · exact State.setConverter_engine ..
        · rfl]
    exact h e he
  requestEngine {_ s i _ k n pol span} h _ _ _ e he := by
    unfold State.requestEngine
    split
    · rename_i f _
      rw [show (s.assignEngine f i ⟨k, n, pol⟩ (span * 1000)).engine e = (s.setEngine f _).engine e from rfl,
        State.engine_setEngine]
      split
      · exact fun _ => Engine.assigned_not_reserved _ _ _
      · exact h e he
    · exact h e he

theorem State.NoneReserved.releaseEngine {e : EngineIndex} (h : s.NoneReserved (some e) i) :
    (s.releaseEngine e).NoneReserved none i := by
  have hset : ∀ {u : State} {v : Engine}, u.engines = s.engines → v.state ≠ .reserved → (u.setEngine e v).NoneReserved none i :=
    fun {u v} hu hv f _ => by
      rw [State.engine_setEngine]
      split
      · exact fun _ => hv
      · rename_i hef
        rw [State.engine, hu]
        exact h f fun hfe => hef (Option.some.inj hfe)
  obtain ⟨-, ht⟩ | ⟨_, j, rest, m, y, -, -, -, ht⟩ := s.releaseEngine_cases e <;> rw [ht]
  · exact hset (by rfl) nofun
  · exact hset (u := { s with waitList := rest }) rfl (Engine.assigned_not_reserved j m y)

theorem State.NoneReserved.deliver (h : s.NoneReserved g i) (k : EntryIndex) (o : Delivered) : (s.deliver k o).NoneReserved g i := by
  unfold State.deliver
  dsimp only
  split
  · exact h
  · exact h
  · unfold State.deliverArmed
    refine noneReservedStarts.completeHeld k (g, i) _ fun e he => ?_
    dsimp only
    split <;> rw [State.engine_of_work (s := s) (by simp)] <;> exact h e he
  · exact h

/-- A completion on its way from an engine is delivered first, and no engine is RESERVED for the watch any more (log 12). -/
theorem State.PlacesBut.settleCompletion (hs : s.PlacesBut none none) (i : EntryIndex) :
    (s.settleCompletion i).PlacesBut none none ∧ (s.settleCompletion i).NoneReserved none i := by
  unfold State.settleCompletion
  split
  · rename_i hnone
    refine ⟨hs, fun e _ hi hr => ?_⟩
    have hno := List.find?_eq_none.mp hnone e (by fin_cases e <;> decide)
    simp [hi, hr] at hno
  · rename_i e he
    refine ⟨hs.deliverFromEngine e, ?_⟩
    have hfound := List.find?_some he
    simp only [Bool.and_eq_true, decide_eq_true_eq] at hfound
    obtain ⟨hi, hr⟩ := hfound
    obtain ⟨o, ho⟩ := Option.isSome_iff_exists.mp (hs.holders.reserved e hr)
    have hghost := hs.ghost_of_holder hi (by simp [hr])
    have hone : s.NoneReserved (some e) i := fun f hf hfi hfr => by
      have hzero := congrArg Work.engines (hghost.exempt i rfl)
      have hpos : 0 < (s.workOf (some e) i).engines :=
        List.countP_pos_iff.mpr ⟨f, by fin_cases f <;> decide, by
          simp only [Engine.measures, hfi, hfr, Bool.and_eq_true, decide_eq_true_eq]
          exact ⟨⟨trivial, nofun⟩, hf⟩⟩
      rw [hzero] at hpos
      cases hpos
    unfold State.deliverFromEngine
    simp only [hi, hr, ho]
    exact (hone.deliver i o).releaseEngine

end

end Sys2Proof.Machine

namespace Sys2Proof.Machine

section
variable {s t : State} {g : Option EngineIndex} {x : Option EntryIndex} {i : EntryIndex}

/-! ### Commands -/

theorem State.PlacesBut.expire (hs : s.PlacesBut none none) (i : EntryIndex) (l : Lateness) : (s.expire i l).PlacesBut none none := by
  have hleave : (s.leaveDueList i).PlacesBut none none :=
    (hs.updateWatch i (f := fun w => { w with dyn := { w.dyn with due := none } }) fun _ => rfl).of_work rfl fun _ => rfl
  exact placesStarts.expire (fun _ => hleave) fun _ _ _ next _ _ _ =>
    (hleave.updateWatch i (f := fun w => { w with dyn := { w.dyn with due := some next } }) fun _ => rfl).of_work rfl fun _ => rfl

theorem State.PlacesBut.watched (hs : s.PlacesBut none none) {w : Watch} (hw : (s.entry i).watch = some w) :
    (s.entry i).state ≠ .free := fun hf => by
  have hm := (hs.placed i nofun).1.carries.mpr hf
  simp [Entry.place, hw] at hm

theorem State.PlacesBut.modify {w : Watch} {c : Contract} (hs : s.PlacesBut none none) (hc : s.Carries i w) :
    (modifyWatchAt s c i w).1.PlacesBut none none := by
  have hwatch := hc.watch
  unfold modifyWatchAt
  dsimp only
  split
  · split
    · rename_i hp
      have hmeasure : c.measure = w.defn.contract.measure := by
        simp only [Contract.permitted, Bool.and_eq_true, decide_eq_true_eq] at hp
        exact hp.1.1
      have hm : (s.setEntry i { s.entry i with watch := some (w.modified c) }).PlacesBut none none :=
        hs.of_work rfl fun k => by
          rw [State.entry_setEntry]
          split
          · rename_i hik
            simp [Entry.place, ← hik, hwatch, Watch.modified, hmeasure]
          · rfl
      unfold State.retestLateness
      split
      · split
        · exact hm.of_work rfl fun _ => rfl
        · exact hm
      · exact hm
    · exact hs
  · split
    · exact hs
    · rename_i ha
      have ha' : (s.entry i).activity = .none := not_not.mp ha
      split
      · refine hs.of_entry (i := i) rfl (fun k hk => by simp [hk]) ?_ ?_ <;> rw [State.entry_setEntry, if_pos rfl]
        · exact
            { states := (hs.placed i nofun).1.states
              carries := iff_of_false nofun (hs.watched hwatch)
              timing := by simp [Entry.place, ha']
              level := by simp [Entry.place, ha'] }
        · rw [Place.work_none (p := (s.entry i).place) ha']
          exact Place.work_none ha'
      · exact hs

theorem State.PlacesBut.armWatch {w : Watch} (hs : s.PlacesBut none none)
    (ha : (s.entry i).activity = .none) (delay : Half) : (s.armWatch i w delay).PlacesBut none none := by
  have hset : (s.setEntry i { s.entry i with state := .armed, watch := some w.armed }).PlacesBut none none := by
    refine hs.of_entry (i := i) rfl (fun k hk => by simp [hk]) ?_ ?_ <;> rw [State.entry_setEntry, if_pos rfl]
    · have hplace : ({ s.entry i with state := .armed, watch := some w.armed } : Entry).place =
          ⟨.armed, .none, some w.armed.defn.contract.measure⟩ := by simp [Entry.place, ha]
      rw [hplace]
      exact Place.ok_none (.inr rfl) nofun
    · rw [Place.work_none (p := (s.entry i).place) ha]
      exact Place.work_none ha
  have hjoin : ∀ d, ((s.setEntry i { s.entry i with state := .armed, watch := some w.armed }).joinDueList i d).PlacesBut none none :=
    fun d => (hset.updateWatch i (f := fun w => { w with dyn := { w.dyn with due := some d } }) fun _ => rfl).of_work rfl fun _ => rfl
  unfold State.armWatch
  dsimp only
  split
  · split
    · exact (hjoin _).expire i _
    · exact hjoin _
  · exact hset

theorem State.letGo_activity (s : State) (i : EntryIndex) (h : (s.entry i).activity ≠ .converting) :
    ((s.letGo i).entry i).activity = .none := by
  unfold State.letGo
  split
  · assumption
  · contradiction
  · simp
  · simp
  · simp

/-- The watch's own part of DISARM and RETIRE leaves it in its place. -/
theorem State.PlacesBut.disarmWatch (hs : s.PlacesBut none none) (hr : s.NoneReserved none i) (ha : (s.entry i).state = .armed) :
    (s.disarmWatch i).PlacesBut none none := by
  unfold State.disarmWatch
  dsimp only
  generalize hs1 : ((s.leaveDueList i).clearHeld i).updateWatch i
    (fun w => if w.dyn.swapPending then w.toggleBanks else w) = s1
  have hwork : s1.work = s.work := by simp [← hs1]
  have hplace : ∀ k, (s1.entry k).place = (s.entry k).place := fun k => by
    rw [← hs1]
    by_cases hik : i = k
    · subst hik
      cases hw : (s.entry i).watch with
      | none => simp [Entry.place, hw]
      | some w =>
        simp only [State.updateWatch_entry, State.clearHeld_entry, State.leaveDueList_entry, if_true, hw, Option.map_some, Entry.place]
        split <;> rfl
    · simp [hik]
  have h1 : s1.PlacesBut none none := hs.of_work hwork hplace
  have hact : (s1.entry i).activity = (s.entry i).activity := congrArg Place.activity (hplace i)
  have hst : (s1.entry i).place.state = .armed := (congrArg Place.state (hplace i)).trans ha
  have hr1 : s1.NoneReserved none i := fun e he => State.engine_of_work hwork e ▸ hr e he
  obtain ⟨hok, -⟩ := h1.placed i nofun
  by_cases hc : (s1.entry i).activity = .converting
  · have hlet : s1.letGo i = s1 := by simp [State.letGo, hc]
    rw [hlet]
    refine h1.of_entry (i := i) rfl (fun k hk => by simp [hk]) ?_ ?_ <;> rw [State.entry_setEntry, if_pos rfl]
    · exact
        { states := by simp [Entry.place, hc, permitted]
          carries := iff_of_false (fun hm => by simpa [hst] using hok.carries.mp hm) nofun
          timing := hok.timing
          level := hok.level }
    · rfl
  · have hlet := h1.letGo hr1 hc
    have hnone := State.letGo_activity s1 i hc
    have hwatch := State.watch_of_register (State.register_letGo s1 i) i
    refine hlet.settle rfl (fun k hk => by simp [hk]) ?_ ?_ <;> rw [State.entry_setEntry, if_pos rfl]
    · have hp : ({ (s1.letGo i).entry i with state := .defined } : Entry).place = ⟨.defined, .none, (s1.entry i).place.measure⟩ := by
        simp [Entry.place, hnone, hwatch]
      rw [hp]
      exact Place.ok_none (.inl rfl) fun hm => by simpa [hst] using hok.carries.mp hm
    · exact Place.work_none hnone

theorem State.PlacesBut.retireWatch (hs : s.PlacesBut none none) (hr : s.NoneReserved none i) (p : Port) :
    (s.retireWatch p i).PlacesBut none none := by
  unfold State.retireWatch
  dsimp only
  generalize hs1 : (((s.leaveDueList i).removeMember p i).clearHeld i).updateWatch i
    (fun w => { w with dyn := { w.dyn with swapPending := false } }) = s1
  have hwork : s1.work = s.work := by simp [← hs1]
  have hplace : ∀ k, (s1.entry k).place = (s.entry k).place := fun k => by
    rw [← hs1]
    by_cases hik : i = k
    · subst hik
      cases hw : (s.entry i).watch <;> simp [Entry.place, hw, State.removeMember]
    · simp [hik, State.removeMember]
  have h1 : s1.PlacesBut none none := hs.of_work hwork hplace
  have hr1 : s1.NoneReserved none i := fun e he => State.engine_of_work hwork e ▸ hr e he
  obtain ⟨hok, -⟩ := h1.placed i nofun
  split
  · rename_i hc
    refine h1.of_entry (i := i) rfl (fun k hk => by simp [hk]) ?_ ?_ <;> rw [State.entry_setEntry, if_pos rfl]
    · obtain ⟨n, r, d, hm⟩ := hok.level (.inr hc)
      exact
        { states := by simp [Entry.place, hc, permitted]
          carries := iff_of_false (fun hn => by
            rw [show (s1.entry i).place.measure = none from hn] at hm
            cases hm) nofun
          timing := hok.timing
          level := hok.level }
    · rfl
  · rename_i hc
    refine (h1.letGo hr1 hc).settle rfl (fun k hk => by simp [hk]) ?_ ?_ <;> rw [State.entry_setEntry, if_pos rfl]
    · exact Place.ok_free
    · exact Place.work_none rfl

/-- A state without watches and work. -/
theorem State.placesBut_cleared (he : ∀ k, (s.entry k).place = ⟨.free, .none, none⟩) (hw : s.work = (State.powerOn resetPins).work) :
    s.PlacesBut none none where
  placed k _ := by
    rw [he, Place.work_none rfl, State.workOf_congr hw]
    refine ⟨Place.ok_free, Work.ext_iff'.mpr ⟨fun c => by cases c <;> rfl, fun c => by cases c <;> rfl, rfl, ?_⟩⟩
    simp [State.workOf, State.powerOn, State.engine, Engine.measures, Engine.freed, Work.none, allEngines]
  exempt := nofun
  holders := State.HoldersOk.of_work hw
    { idle := fun c _ => by cases c <;> rfl
      checks := fun c r hr => by cases c <;> cases hr
      assigned := fun e hf => absurd (by fin_cases e <;> rfl) hf
      reserved := fun e hr => absurd hr (by fin_cases e <;> nofun) }
  ghost := nofun

theorem placesKept : Kept fun (_ : Unit) s => s.PlacesBut none none where
  clearHeld i _ s h := placesStarts.clearHeld i _ s h
  holdTrigger h ha hp := placesStarts.holdTrigger h ha hp
  countOverrun h ha := placesStarts.countOverrun h ha
  submit h ha hn hm := placesStarts.submit h ha hn hm
  requestEngine h ha hn hm := placesStarts.requestEngine h ha hn hm
  core hc h := h.of_work (State.work_of_core _ hc) fun k => (congrArg (fun u : State => (u.entry k).place) hc :)
  engines {_ s v} hv h := by
    have hmeasures : ∀ (e : EngineIndex) k, v[e].measures k = (s.engine e).measures k := fun e k => by
      simp only [Engine.measures, (hv e).holder, ne_eq, (hv e).free]
    refine ⟨fun k hk => ?_, nofun, ⟨h.holders.idle, h.holders.checks, fun e hf => ?_, fun e hr => ?_⟩, nofun⟩
    · have hwork : State.workOf { s with engines := v } none k = s.workOf none k := by
        refine Work.ext_iff'.mpr ⟨fun _ => rfl, fun _ => rfl, rfl, ?_⟩
        simp only [State.workOf, show ∀ e, State.engine { s with engines := v } e = v[e] from fun _ => rfl, hmeasures]
      exact ⟨(h.placed k hk).1, hwork.trans (h.placed k hk).2⟩
    · have ha := h.holders.assigned e fun hs => hf ((hv e).free.mpr hs)
      rw [← (hv e).holder, ← (hv e).measurement] at ha
      exact ha
    · obtain heq | hsome := (hv e).reserved hr
      · have hr' : (s.engine e).state = .reserved := by rwa [← heq]
        have ho := h.holders.reserved e hr'
        rwa [← heq] at ho
      · exact hsome
  line l v _ h := h.of_work (State.work_setLine _ l v) fun k => congrArg Entry.place (State.setLine_entry ..)
  setHold p h := h.of_work (State.work_setHold _ p true) fun k => congrArg Entry.place (State.setHold_entry ..)
  releaseHold := StartsKept.releaseHold
    ⟨fun i _ s h => placesStarts.clearHeld i _ s h, fun h ha hp => placesStarts.holdTrigger h ha hp,
      fun h ha => placesStarts.countOverrun h ha, fun h ha hn hm => placesStarts.submit h ha hn hm,
      fun h ha hn hm => placesStarts.requestEngine h ha hn hm⟩
    (fun p _ _ h => h.of_work (State.work_setHold _ p false) fun k => congrArg Entry.place (State.setHold_entry ..))
    (fun _ _ h => h.of_work rfl fun _ => rfl) fun h _ => h.expire _ _
  expire h _ := h.expire _ _
  setLateness _ _ _ h := h.of_work rfl fun _ => rfl
  removeMember p i _ s h := h.of_work (State.work_removeMember s p i) fun k => congrArg Entry.place (State.setAttention_entry ..)
  resetAttention p _ s h := h.of_work (State.work_setAttention s p _) fun k => congrArg Entry.place (State.setAttention_entry ..)
  create {_ s i _ _ _ _} h _ hf := by
    have hst := (h.placed i nofun).1.states
    have ha : (s.entry i).activity = .none := by simpa [Entry.place, permitted, hf] using hst
    refine h.of_entry (i := i) rfl (fun k hk => by simp [hk]) ?_ ?_ <;> rw [State.entry_setEntry, if_pos rfl]
    · exact Place.ok_none (.inl rfl) nofun
    · rw [Place.work_none (p := (s.entry i).place) ha]
      exact Place.work_none rfl
  modify h hc _ := h.modify hc
  writeBank {_ s i w _ k} h _ _ := by
    unfold writeBankAt
    split
    · exact h
    · split
      · exact h.updateWatch i fun w' => by
          show (w'.defn.setBank w'.defn.active.other k).contract.measure = w'.defn.contract.measure
          cases w'.defn.active <;> rfl
      · exact h
  swapBank {_ s i w} h _ := by
    unfold swapBankAt
    split
    · exact h
    · split <;> exact h.updateWatch i fun _ => rfl
  arm {_ s i w} delay h _ := by
    unfold armAt
    split
    · exact h
    · rename_i hs
      simp only [not_or, not_not] at hs
      split
      · exact h.armWatch hs.2 delay
      · split
        · exact h.armWatch hs.2 delay
        · exact h
  disarm {_ s i w} h _ := by
    obtain ⟨h1, hr⟩ := h.settleCompletion i
    unfold disarmAt
    dsimp only
    split
    · exact h
    · split
      · exact h1
      · rename_i ha
        exact h1.disarmWatch hr (not_not.mp ha)
  retire {_ s i w} h _ := by
    obtain ⟨h1, hr⟩ := h.settleCompletion i
    exact h1.retireWatch hr _
  retireOwned p i _ s h := by
    show (State.retireOwned p s i).PlacesBut none none
    unfold State.retireOwned
    split
    · obtain ⟨h1, hr⟩ := h.settleCompletion i
      exact h1.retireWatch hr p
    · exact h
  resetOverruns i _ _ h := h.updateWatch i fun _ => rfl
  appendCheck {_ s} c _ h := by
    refine h.setConverter (fun k => (requestsOf_append k _ _).trans (List.append_nil _)) (fun _ => rfl) (h.holders.idle c)
      fun r hr hc => ?_
    simp only [List.mem_append, List.mem_singleton] at hr
    rcases hr with (hr | rfl) | hr
    · exact h.holders.checks c r (List.mem_append.mpr (.inl hr)) hc
    · rfl
    · exact h.holders.checks c r (List.mem_append.mpr (.inr hr)) hc
  takeNext {_ s} c hc h := h.takeNext fun k => by
    obtain hidle | hidle | ⟨r, hr, hsub⟩ := hc
    · rw [h.holders.idle c (.inl hidle)]
      rfl
    · rw [h.holders.idle c (.inr hidle)]
      rfl
    · have hnil : r.subscribers = [] := hsub.elim id (h.holders.checks c r (by simp [hr]))
      simp [hr, requestsOf_cons, hnil]
  beginConversion {_ s} c _ h := h.setConverter (fun _ => rfl) (fun _ => rfl) (by rintro (h | h) <;> cases h) (h.holders.checks c)
  takeDelivery source _ s h := by
    cases source with
    | converter c i => exact h.deliverFromConverter c i
    | engine e => exact h.deliverFromEngine e
  powerOn _ := State.placesBut_cleared (fun k => by simp [State.entry, State.powerOn, Entry.powerOn, Entry.place]) rfl
  inReset _ s _ := State.placesBut_cleared (fun k => by
    rw [show s.inReset.entry k = (s.entry k).afterReset from mapEntries_get Entry.afterReset s.entries k]
    rfl) rfl

/-- Settles O59: by the equation between places and work, for every watch at once. -/
theorem placesInvariantIsKept : Obligations.PlacesInvariantIsKept := fun s hs t ht =>
  (State.placesOk_iff t).mpr (placesKept.step (j := ()) ht ((State.placesOk_iff s).mp hs))

end

end Sys2Proof.Machine

/-! ### Steps, time and resets (O1, O2, O17 to O19, O60) -/

namespace Sys2Proof.Machine

/-- Settles O1: by the definition of a step, split on the queue. -/
theorem stepRunsFrontOfQueue : Obligations.StepRunsFrontOfQueue := by
  intro s c rest h
  rw [step, h]

/-! Time. -/

theorem State.elapse_clock (s : State) (n : Nat) :
    (s.elapse n).now.toNat * 10 + (s.elapse n).micro.val = (s.now.toNat * 10 + s.micro.val + n) % (2 ^ 32 * 10) := by
  have hnow : (s.elapse n).now.toNat = (s.now.toNat + (s.micro.val + n) / 10) % 2 ^ 32 := by
    simp [State.elapse, BitVec.toNat_add]
  have hmicro : (s.elapse n).micro.val = (s.micro.val + n) % 10 := rfl
  rw [hnow, hmicro]
  omega

theorem Engine.elapse_of_untimed {v : Engine} (n : Nat) (h : v.state = .free ∨ v.state = .reserved) : v.elapse n = v := by
  rcases h with h | h <;> simp [Engine.elapse, h]

theorem Engine.elapse_of_aging {v : Engine} (n : Nat) (h : v.state = .awaitStart ∨ v.state = .gating) :
    v.elapse n = { v with age := v.age + n } := by
  rcases h with h | h <;> simp [Engine.elapse, h]

theorem Engine.elapse_of_timing {v : Engine} (n : Nat) (h : v.state = .timing) :
    v.elapse n = { v with age := v.age + n, elapsed := v.elapsed + n } := by simp [Engine.elapse, h]

/-- An idle part with no event due lets 1 µs pass (log 1). -/
theorem step_of_nothingDue {s : State} (hp : s.pending = []) (hr : s.resetAsserted = false) (hn : s.nextEvent = none) :
    step s = .next (s.elapse 1) := by
  rw [step, hp]
  simp [idleStep, hr, hn]

/-- Settles O2: each timed field by its own rule of `elapse`. -/
theorem deviceTimeCountsTenMicroseconds : Obligations.DeviceTimeCountsTenMicroseconds := by
  intro s n
  refine ⟨s.elapse_clock n, rfl, s.elapse_line n, s.elapse_din n, s.elapse_converter n, fun e => ⟨fun h => ?_, fun h => ?_, fun h => ?_⟩,
    fun h => ?_, fun hb hs => ?_, step_of_nothingDue⟩
  · rw [State.elapse_engine, Engine.elapse_of_untimed n h]
  · rw [State.elapse_engine, Engine.elapse_of_aging n h]
  · rw [State.elapse_engine, Engine.elapse_of_timing n h]
  · show s.portB.elapse n = s.portB
    refine if_neg fun hl => ?_
    rcases h with h | h
    · exact hl.1 h
    · exact absurd (h.symm.trans hl.2) nofun
  · exact if_pos ⟨hb, hs⟩

/-! Resets. -/

theorem dinsAfterReset_get (pins : PinLevels) (n : TimingInput) : (dinsAfterReset pins)[n] = DinContext.afterReset pins.din[n] := by
  fin_cases n <;> rfl

theorem portBAddress_toNat (adr : BitVec 2) : (portBAddress adr).toNat = 0x58 + adr.toNat := by
  have h := adr.isLt
  simp only [portBAddress, BitVec.toNat_add, BitVec.toNat_setWidth, BitVec.toNat_ofNat]
  omega

/-- What the two resets share: every block but entries and corrections as after a power-on. -/
theorem State.blocksReset_of_powerOn {t : State} {pins : PinLevels}
    (he : ∀ i, (t.entry i).state = .free ∧ (t.entry i).activity = .none ∧ (t.entry i).watch = none)
    (ht : t = { State.powerOn pins with
      entries := t.entries, corrections := t.corrections, addressB := t.addressB, resetAsserted := t.resetAsserted
      samples := t.samples, pending := t.pending }) : t.BlocksReset := by
  have hattention : ∀ p, t.attention p = Attention.afterReset := fun p => by rw [ht]; cases p <;> rfl
  have hline : ∀ l, ∃ pin, t.line l = TrgContext.afterReset pin := fun l => by rw [ht]; cases l <;> exact ⟨_, rfl⟩
  have hconverter : ∀ c, t.converter c = Converter.afterReset := fun c => by rw [ht]; cases c <;> rfl
  have hdin : ∀ n, t.din n = DinContext.afterReset pins.din[n] := fun n => by rw [ht]; exact dinsAfterReset_get pins n
  have hengine : ∀ e, t.engine e = Engine.freed := fun e => by rw [ht]; fin_cases e <;> rfl
  have hport : ∀ p, t.port p = PortState.afterReset := fun p => by rw [ht]; cases p <;> rfl
  exact
    { entries := he
      time := by rw [ht]; exact ⟨rfl, rfl⟩
      scheduler := by rw [ht]; exact ⟨rfl, rfl, rfl⟩
      lines := fun l => by
        obtain ⟨pin, hl⟩ := hline l
        rw [hl]
        exact ⟨rfl, rfl, rfl, rfl, rfl, rfl, rfl⟩
      converters := fun c => by rw [hconverter]; exact ⟨rfl, rfl, rfl, rfl, rfl⟩
      check := by rw [ht]; rfl
      filters := fun n => by rw [hdin]; exact ⟨rfl, rfl⟩
      engines := fun e => by rw [hengine]; exact ⟨rfl, rfl, rfl⟩
      waitList := by rw [ht]; rfl
      attention := fun p => by
        rw [State.attentionLine, hattention]
        exact ⟨fun i => by simp [Attention.afterReset], rfl, rfl, rfl⟩
      ports := fun p => by rw [hport]; exact ⟨rfl, rfl⟩ }

theorem exec_powerOnReset (pins : PinLevels) (s : State) : exec (.powerOnReset pins) s =
    .next { State.powerOn pins with resetAsserted := s.resetAsserted, samples := s.samples, pending := s.pending } := rfl

theorem State.powerOn_entry (pins : PinLevels) (i : EntryIndex) : (State.powerOn pins).entry i = Entry.powerOn := by
  simp [State.entry, State.powerOn]

/-- Settles O17: every field of the power-on state. -/
theorem powerOnResetGivesEveryResetValue : Obligations.PowerOnResetGivesEveryResetValue := by
  intro s pins
  refine ⟨_, exec_powerOnReset pins s, State.blocksReset_of_powerOn (pins := pins) (fun i => ?_) rfl, fun i => ?_, fun n r => ?_,
    rfl, rfl, fun n => ?_, portBAddress_toNat _, rfl⟩
  · exact State.powerOn_entry pins i ▸ ⟨rfl, rfl, rfl⟩
  · exact congrArg Entry.generation (State.powerOn_entry pins i)
  · simp [State.correction, State.powerOn, Correction.identity]
  · exact congrArg DinContext.level (dinsAfterReset_get pins n)

theorem State.inReset_entry (s : State) (i : EntryIndex) : s.inReset.entry i = (s.entry i).afterReset :=
  mapEntries_get Entry.afterReset s.entries i

theorem exec_resetAssertion (s : State) : exec .resetAssertion s = .next (if s.resetAsserted then s else s.inReset) := rfl

theorem exec_resetDeassertion {s : State} (h : s.resetAsserted = true) (pins : PinLevels) : exec (.resetDeassertion pins) s =
    .next { s with
      trg0 := TrgContext.afterReset pins.trg0
      trg1 := TrgContext.afterReset pins.trg1
      dins := dinsAfterReset pins
      addressB := portBAddress pins.adr
      resetAsserted := false } := by
  show execResetDeassertion pins s = _
  rw [execResetDeassertion, if_pos h]

/-- Settles O18: the assertion maps every entry and keeps the corrections; its end takes the pins. -/
theorem resetLineResetsAllButTheCorrections : Obligations.ResetLineResetsAllButTheCorrections := by
  intro s
  refine ⟨fun h => ⟨s.inReset, ?_, State.blocksReset_of_powerOn (pins := s.pins) (fun i => ?_) rfl, rfl, fun i hi => ?_, fun i hi => ?_,
    rfl, rfl⟩, fun pins h => ⟨_, exec_resetDeassertion h pins, rfl, rfl, rfl, rfl, rfl, fun n => ?_, portBAddress_toNat _, ?_⟩⟩
  · rw [exec_resetAssertion, h]
    rfl
  · rw [State.inReset_entry]
    exact ⟨rfl, rfl, rfl⟩
  · rw [State.inReset_entry]
    exact if_pos hi
  · rw [State.inReset_entry]
    exact if_neg hi
  · have hn := dinsAfterReset_get pins n
    exact ⟨congrArg DinContext.level hn, congrArg DinContext.raw hn⟩
  · rw [← h]

theorem State.command_inReset {s : State} (h : s.resetAsserted = true) (p : Port) (tag : Byte) (len : Nat) (b : Bool)
    (body : State → State × Reply) : s.command p tag len b body = s := by simp [State.command, h]

/-- Settles O19: every meaning but the two of resets begins with the test of RESET#. -/
theorem nothingHappensWhileResetIsAsserted : Obligations.NothingHappensWhileResetIsAsserted := by
  intro i s h hpower hdeassert
  cases i
  case powerOnReset pins => exact absurd rfl (hpower pins)
  case resetDeassertion pins => exact absurd rfl (hdeassert pins)
  case identify | createWatch | modifyWatch | writeBank | swapBank | arm | disarm | retire | sample | readWatch | readValue
    | listWatches | fetchAttention | attentionEnable | setCorrection | readCorrection | setFilter | readInputs | triggerConfig
    | triggerRearm | hold | resume | referenceCheck | readConverters | portReset =>
    exact congrArg Host.Outcome.next (State.command_inReset h ..)
  case requestFrame | responseRead => exact if_pos h
  case warmupExpiry | settleExpiry | checkCompletion | limitExpiry | gateExpiry =>
    exact congrArg Host.Outcome.next (if_pos (.inl h))
  case partialFrameDiscard | collidingWrite | stallTimeout | resetAssertion | becomePastDue | becomeLate | intervalExpiry
    | trgTransition | waitingEdge | requestStart | conversionCompletion | dinTransition | delivery =>
    exact congrArg Host.Outcome.next (if_pos h)

/-- Settles O60: the state after power-on has no watch, no work and no member of any set. -/
theorem resetMeetsTheInvariants : Obligations.ResetMeetsTheInvariants := by
  have hdue : State.reset.DueWithin fun _ => False := dueRegisterKept.powerOn _
  refine ⟨queuesWorkKept.powerOn, waitListWorkKept.powerOn, tableRegisterKept.powerOn (), attentionRegisterKept.powerOn (),
    ?_, ?_, (State.placesOk_iff _).mpr (placesKept.powerOn ()), linesWorkKept.powerOn⟩
  · exact hdue.list
  · exact ((State.dueWithin_none _).mp hdue).2

end Sys2Proof.Machine

/-! ### The lowest entry of a property -/

namespace Sys2Proof.Machine

theorem allEntries_sorted : allEntries.Pairwise (· < ·) := by decide

theorem mem_allEntries (i : EntryIndex) : i ∈ allEntries :=
  List.mem_map.mpr ⟨i.val, List.mem_range.mpr i.isLt, Fin.ofNat_val_eq_self i⟩

theorem find?_allEntries {f : EntryIndex → Bool} {i : EntryIndex} (hi : f i = true) (hlow : ∀ j, f j = true → i ≤ j) :
    allEntries.find? f = some i := by
  obtain ⟨front, back, hsplit⟩ := List.append_of_mem (mem_allEntries i)
  refine List.find?_eq_some_iff_append.mpr ⟨hi, front, back, hsplit, fun j hj => ?_⟩
  have hji : j < i := by
    have hsorted := allEntries_sorted
    rw [hsplit, List.pairwise_append] at hsorted
    exact hsorted.2.2 j hj i List.mem_cons_self
  cases hf : f j with
  | false => rfl
  | true => exact absurd hji (Fin.not_lt.mpr (hlow j hf))

theorem find?_allEntries_none {f : EntryIndex → Bool} (h : ∀ i, f i = false) : allEntries.find? f = none :=
  List.find?_eq_none.mpr fun i _ => by simp [h i]

theorem toList_eq_map_allEntries {α : Type} (v : Vector α 64) : v.toList = allEntries.map fun i => v[i] := by
  refine List.ext_getElem (by simp [allEntries]) fun k h1 h2 => ?_
  have hk : k < 64 := by simpa using h1
  simp [allEntries, Nat.mod_eq_of_lt hk]

/-! ### FETCH ATTENTION (R159, R160) -/

theorem Attention.select_eq (a : Attention) : a.select =
    (allEntries.find? fun i => a.causes[i] != 0 && decide (a.cursor ≤ i)).or (allEntries.find? fun i => a.causes[i] != 0) := by
  simp only [Attention.select, List.find?_filter, List.head?_filter, Bool.decide_and, Bool.decide_eq_true]

theorem Attention.select_none {a : Attention} (h : ∀ i : EntryIndex, a.causes[i] = 0) : a.select = none := by
  rw [Attention.select_eq, find?_allEntries_none fun i => by simp [h i], find?_allEntries_none fun i => by simp [h i]]
  rfl

/-- The lowest member at or after the cursor. -/
theorem Attention.select_atCursor {a : Attention} {i : EntryIndex} (hi : a.causes[i] ≠ 0) (hc : a.cursor ≤ i)
    (hlow : ∀ j, a.cursor ≤ j → a.causes[j] ≠ 0 → i ≤ j) : a.select = some i := by
  rw [Attention.select_eq, find?_allEntries (i := i) (by rw [bne_iff_ne.mpr hi, decide_eq_true hc]; rfl) fun j hj => ?_]
  · rfl
  · simp only [Bool.and_eq_true, bne_iff_ne, decide_eq_true_eq] at hj
    exact hlow j hj.2 hj.1

/-- No member stands at or after the cursor: the lowest of all. -/
theorem Attention.select_wrapped {a : Attention} {i : EntryIndex} (hi : a.causes[i] ≠ 0)
    (hnone : ∀ j, a.cursor ≤ j → a.causes[j] = 0) (hlow : ∀ j, a.causes[j] ≠ 0 → i ≤ j) : a.select = some i := by
  rw [Attention.select_eq, find?_allEntries_none fun j => ?_, find?_allEntries (f := fun j => a.causes[j] != 0) (i := i) (bne_iff_ne.mpr hi) fun j hj => ?_]
  · rfl
  · exact hlow j (by simpa using hj)
  · by_cases hj : a.cursor ≤ j
    · simp [hnone j hj]
    · simp [hj]

/-- The members left after a fetch are the others. -/
theorem Attention.fetched_causes (a : Attention) (i j : EntryIndex) :
    (a.fetched i).causes[j] = if i = j then 0 else a.causes[j] := by
  simp only [Attention.fetched, Fin.getElem_fin, Vector.getElem_set, Fin.ext_iff]

theorem Attention.members_fetched (a : Attention) (i : EntryIndex) :
    (a.fetched i).members = allEntries.countP fun j => decide (j ≠ i) && decide (a.causes[j] ≠ 0) := by
  rw [Attention.members, toList_eq_map_allEntries, List.countP_map]
  refine List.countP_congr fun j _ => ?_
  simp only [Function.comp_apply, Attention.fetched_causes]
  by_cases hij : i = j
  · simp [hij]
  · simp [hij, Ne.symm hij]

theorem exec_fetchAttention (p : Port) (tag : Byte) (s : State) :
    exec (.fetchAttention p tag) s = .next (s.command p tag 0 true (fetchAttentionBody p)) := rfl

theorem fetchAttentionBody_of_select {s : State} {p : Port} {i : EntryIndex} (h : (s.attention p).select = some i) :
    fetchAttentionBody p s = (s.setAttention p ((s.attention p).fetched i),
      .ok [byteOf i.val, byteOf (s.entry i).generation.toNat, (s.attention p).causes[i].setWidth 8,
        byteOf ((s.attention p).fetched i).members]) := by
  simp only [fetchAttentionBody, h]

theorem answers_fetchAttention {s : State} {p : Port} {i : EntryIndex} (tag : Byte) (ha : s.accepts p = true)
    (h : (s.attention p).select = some i) :
    Answers (.fetchAttention p tag) s p tag .ok
      [byteOf i.val, byteOf (s.entry i).generation.toNat, (s.attention p).causes[i].setWidth 8,
        byteOf ((s.attention p).fetched i).members] (s.setAttention p ((s.attention p).fetched i)) := by
  refine answers_ok (exec_fetchAttention p tag s) ha fun v => ?_
  rw [fetchAttentionBody_of_select (by rwa [State.setPort_attention]), State.setPort_attention, State.setPort_entry,
    State.setAttention_setPort]

/-- Settles O31: both ways of selecting name the lowest entry of a property. -/
theorem fetchAttentionRotates : Obligations.FetchAttentionRotates := by
  intro s p tag i
  dsimp only
  intro ha hi hsel
  have hselect : (s.attention p).select = some i := by
    obtain ⟨hc, hlow⟩ | ⟨hnone, hlow⟩ := hsel
    · exact Attention.select_atCursor hi hc hlow
    · exact Attention.select_wrapped hi hnone hlow
  refine ⟨?answer, ?line, State.attentionLine_setAttention_otherPort s p _⟩
  case answer =>
    have hanswer := answers_fetchAttention tag ha hselect
    rw [Attention.members_fetched, byteOf, byteOf, byteOf, BitVec.ofNat_toNat] at hanswer
    exact hanswer
  case line =>
    rw [State.attentionLine_iff, State.attention_setAttention, if_pos rfl]
    refine and_congr_right fun _ => exists_congr fun j => ?_
    show ((s.attention p).fetched i).causes[j] ≠ 0 ↔ _
    rw [Attention.fetched_causes]
    by_cases hij : i = j
    · simp [hij]
    · simp [hij, Ne.symm hij]

/-- Settles O32: no entry is selected. -/
theorem fetchAttentionOnAnEmptySet : Obligations.FetchAttentionOnAnEmptySet := by
  intro s p tag ha hnone
  refine ⟨answers_refusal (exec_fetchAttention p tag s) ha fun v => ?_, ?_⟩
  · rw [fetchAttentionBody, State.setPort_attention, Attention.select_none hnone]
  · rw [Bool.eq_false_iff, ne_eq, State.attentionLine_iff]
    rintro ⟨-, i, hi⟩
    exact hi (hnone i)

/-! ### HOLD (R61) -/

theorem State.isHeld_iff (s : State) : s.isHeld = true ↔ s.holdA = true ∨ s.holdB = true := by simp [State.isHeld]

theorem exec_hold (p : Port) (tag : Byte) (s : State) : exec (.hold p tag) s =
    .next (s.command p tag 0 true fun s => (s.setHold p true, .ok (holdData (s.setHold p true)))) := rfl

/-- Settles O44: the claim is one field, and the answer reads both. -/
theorem holdSetsTheClaim : Obligations.HoldSetsTheClaim := by
  intro s p tag ha
  refine ⟨answers_ok (exec_hold p tag s) ha fun v => ?_, ?_, fun h => ?_, State.isHeld_iff⟩
  · rw [State.setHold_setPort]
    cases p <;> simp [holdData, State.setHold, flagByte]
  · cases p <;> simp [State.setHold, State.isHeld]
  · rw [← h, State.setHold_self]

end Sys2Proof.Machine

/-! ### Bytes of reports (R178) -/

namespace Sys2Proof.Machine

/-- Two bytes of a halfword read back as it. -/
theorem halfBytes_joined (v : Half) : v.extractLsb' 8 8 ++ v.extractLsb' 0 8 = v := by
  refine BitVec.eq_of_getLsbD_eq fun k hk => ?_
  rw [BitVec.getLsbD_append, BitVec.getLsbD_extractLsb', BitVec.getLsbD_extractLsb']
  by_cases h : k < 8
  · simp [h]
  · have h8 : 8 + (k - 8) = k := by omega
    have hlt : k - 8 < 8 := by omega
    simp [h, h8, hlt]

theorem halfAt_halfBytes (v : Half) : halfAt (halfBytes v) 0 = v := halfBytes_joined v

/-- Four bytes of a word read back as it. -/
theorem wordAt_wordBytes (v : Word) : wordAt (wordBytes v) 0 = v := by
  show (v.extractLsb' 24 8 ++ v.extractLsb' 16 8) ++ (v.extractLsb' 8 8 ++ v.extractLsb' 0 8) = v
  refine BitVec.eq_of_getLsbD_eq fun k hk => ?_
  simp only [BitVec.getLsbD_append, BitVec.getLsbD_extractLsb']
  by_cases h8 : k < 8
  · simp [h8, show k < 16 by omega]
  · by_cases h16 : k < 16
    · have hk8 : 8 + (k - 8) = k := by omega
      simp [h8, h16, hk8, show k - 8 < 8 by omega]
    · by_cases h24 : k < 24
      · have hk16 : 16 + (k - 16) = k := by omega
        simp [h16, hk16, show k - 16 < 8 by omega]
      · have hk24 : 24 + (k - 16 - 8) = k := by omega
        simp [h16, hk24, show ¬ k - 16 < 8 by omega, show k - 16 - 8 < 8 by omega]

theorem halfAt_append_left {as bs : List Byte} {k : Nat} (h : k + 1 < as.length) : halfAt (as ++ bs) k = halfAt as k := by
  rw [halfAt, halfAt, byteAt_append_left (by omega), byteAt_append_left h]

theorem halfAt_append_add {as bs : List Byte} {n : Nat} (h : as.length = n) (k : Nat) : halfAt (as ++ bs) (n + k) = halfAt bs k := by
  rw [halfAt, halfAt, Nat.add_assoc, byteAt_append_add h, byteAt_append_add h]

/-! ### IDENTIFY and READ CONVERTERS (R102, R181, R182) -/

theorem exec_identify (p : Port) (tag : Byte) (s : State) :
    exec (.identify p tag) s = .next (s.command p tag 0 true fun s => (s, .ok identifyData)) := rfl

theorem exec_readConverters (p : Port) (tag : Byte) (s : State) :
    exec (.readConverters p tag) s = .next (s.command p tag 0 true fun s => (s, .ok (readConvertersData s))) := rfl

theorem readConvertersData_setPort (s : State) (p : Port) (v : PortState) :
    readConvertersData (s.setPort p v) = readConvertersData s := by cases p <;> rfl

theorem answers_readConverters {s : State} {p : Port} (tag : Byte) (ha : s.accepts p = true) :
    Answers (.readConverters p tag) s p tag .ok (readConvertersData s) s :=
  answers_ok (exec_readConverters p tag s) ha fun v => by rw [readConvertersData_setPort]

/-- A converter's report stands at its place. -/
theorem byteAt_readConvertersData {s : State} {c : ConverterId} {k j : Nat} (h : (c = .c0 ∧ k = 0) ∨ (c = .c1 ∧ k = 6))
    (hj : j < 6) : byteAt (readConvertersData s) (k + j) = byteAt (converterBytes (s.converter c)) j := by
  have hlen : ∀ v, (converterBytes v).length = 6 := fun _ => rfl
  rw [readConvertersData]
  obtain ⟨rfl, rfl⟩ | ⟨rfl, rfl⟩ := h
  · rw [Nat.zero_add, byteAt_append_left (by simp [hlen]; omega), byteAt_append_left (by rw [hlen]; exact hj)]
    rfl
  · rw [byteAt_append_left (by simp [hlen]; omega), byteAt_append_add (hlen _)]
    rfl

theorem Converter.checkPending_iff (v : Converter) :
    v.checkPending = true ↔ ∃ r ∈ v.current.toList ++ v.queue, r.isCheck = true := by
  rw [Converter.checkPending, List.any_eq_true]
  rfl

/-- Settles O3: each field of the reports is one byte of the layout. -/
theorem identifyAndReadConvertersReport : Obligations.IdentifyAndReadConvertersReport := by
  intro s p tag ha
  refine ⟨answers_ok (exec_identify p tag s) ha fun v => rfl, readConvertersData s, answers_readConverters tag ha, rfl, ?_,
    fun c k hck => ⟨?_, ?_, fun hn => ⟨?_, ?_⟩, fun r n hr hs => ⟨?_, ?_⟩, fun r hr hs => ⟨?_, ?_⟩, ?_, fun hcheck => ?_,
      fun hcheck => ?_⟩⟩
  · show flagByte s.check.issuer.isSome = _
    cases s.check.issuer <;> simp [flagByte]
  · rw [← Nat.add_zero k, byteAt_readConvertersData hck (by decide)]
    show (s.converter c).state.byte = _
    cases (s.converter c).state <;> rfl
  · rw [byteAt_readConvertersData hck (by decide)]
    rfl
  · rw [byteAt_readConvertersData hck (by decide)]
    show requestKindByte (s.converter c).current = 0
    rw [hn]
    rfl
  · rw [byteAt_readConvertersData hck (by decide)]
    show requestInputByte (s.converter c).current = 0
    rw [hn]
    rfl
  · rw [byteAt_readConvertersData hck (by decide)]
    show requestKindByte (s.converter c).current = 1
    rw [hr, requestKindByte, if_neg (by simp [hs])]
  · rw [byteAt_readConvertersData hck (by decide)]
    show requestInputByte (s.converter c).current = _
    rw [hr, requestInputByte, hs]
    rfl
  · rw [byteAt_readConvertersData hck (by decide)]
    show requestKindByte (s.converter c).current = 2
    rw [hr, requestKindByte, if_pos hs]
  · rw [byteAt_readConvertersData hck (by decide)]
    show requestInputByte (s.converter c).current = _
    rw [hr, requestInputByte, hs]
  · rw [byteAt_readConvertersData hck (by decide)]
    rfl
  · rw [byteAt_readConvertersData hck (by decide)]
    show flagByte (s.converter c).checkPending = 1
    rw [(Converter.checkPending_iff _).mpr hcheck]
    rfl
  · rw [byteAt_readConvertersData hck (by decide)]
    show flagByte (s.converter c).checkPending = 0
    have hnot : (s.converter c).checkPending = false := by
      rw [Bool.eq_false_iff, ne_eq, Converter.checkPending_iff]
      rintro ⟨r, hr, hc⟩
      exact absurd (hcheck r hr) (by simp [hc])
    rw [hnot]
    rfl

/-! ### READ INPUTS (R78, R119) -/

theorem exec_readInputs (p : Port) (tag : Byte) (s : State) :
    exec (.readInputs p tag) s = .next (s.command p tag 0 true fun s => (s, .ok (readInputsData s))) := rfl

theorem readInputsData_setPort (s : State) (p : Port) (v : PortState) : readInputsData (s.setPort p v) = readInputsData s := by
  cases p <;> rfl

theorem answers_readInputs {s : State} {p : Port} (tag : Byte) (ha : s.accepts p = true) :
    Answers (.readInputs p tag) s p tag .ok (readInputsData s) s :=
  answers_ok (exec_readInputs p tag s) ha fun v => by rw [readInputsData_setPort]

/-- The levels, the settings and the two lines' reports. -/
theorem readInputsData_eq (s : State) : readInputsData s =
    ([packByte (s.dins.toList.map fun d => decide (d.level = .high))] ++ s.dins.toList.map (·.setting.byte)) ++
      (lineBytes (s.line .trg0) ++ lineBytes (s.line .trg1)) := by
  simp [readInputsData, State.line]

theorem dins_getD {α : Type} (s : State) (n : TimingInput) (f : DinContext → α) (x : α) :
    (s.dins.toList.map f).getD n.val x = f (s.din n) := by
  have hn : n.val < (s.dins.toList.map f).length := by simp
  rw [List.getD_eq_getElem _ _ hn]
  simp [State.din]

theorem readInputsData_line {s : State} {l : TrgLine} {k : Nat} (h : (l = .trg0 ∧ k = 9) ∨ (l = .trg1 ∧ k = 15)) :
    ∀ j, j < 6 → byteAt (readInputsData s) (k + j) = byteAt (lineBytes (s.line l)) j := by
  intro j hj
  have hlen : ∀ t, (lineBytes t).length = 6 := fun _ => rfl
  have hinputs : ([packByte (s.dins.toList.map fun d => decide (d.level = .high))] ++ s.dins.toList.map (·.setting.byte)).length = 9 := by
    simp
  rw [readInputsData_eq]
  obtain ⟨rfl, rfl⟩ | ⟨rfl, rfl⟩ := h
  · rw [byteAt_append_add hinputs, byteAt_append_left (by rw [hlen]; exact hj)]
  · rw [show 15 + j = 9 + (6 + j) by omega, byteAt_append_add hinputs, byteAt_append_add (hlen _)]

/-- Settles O5: the reports stand one after the other. -/
theorem readInputsReportsPinsAndLines : Obligations.ReadInputsReportsPinsAndLines := by
  intro s p tag ha
  refine ⟨readInputsData s, answers_readInputs tag ha, by simp [readInputsData, lineBytes, halfBytes], fun n => ⟨?_, ?_⟩,
    fun l k hlk => ⟨?_, ?_, ?_, ?_, ?_⟩⟩
  · show (packByte (s.dins.toList.map fun d => decide (d.level = .high))).getLsbD n.val = true ↔ _
    rw [getLsbD_packByte _ n.isLt, dins_getD, decide_eq_true_eq]
  · rw [readInputsData_eq, byteAt_append_left (by simp; omega), byteAt_append_add (n := 1) rfl]
    refine (dins_getD s n (·.setting.byte) 0).trans ?_
    cases (s.din n).setting <;> rfl
  · rw [← Nat.add_zero k, readInputsData_line hlk 0 (by decide)]
    show (s.line l).mode.byte = _
    cases (s.line l).mode <;> rfl
  · rw [readInputsData_line hlk 1 (by decide)]
    show (s.line l).edge.byte = _
    cases (s.line l).edge <;> rfl
  · rw [readInputsData_line hlk 2 (by decide)]
    show subStateByte (s.line l).sub = _
    rcases (s.line l).sub with _ | _ | _ <;> rfl
  · rw [readInputsData_line hlk 3 (by decide)]
    show levelByte (s.line l).level = _
    cases (s.line l).level <;> rfl
  · rw [halfAt, readInputsData_line hlk 4 (by decide), Nat.add_assoc, readInputsData_line hlk 5 (by decide)]
    exact halfBytes_joined _

end Sys2Proof.Machine

/-! ### The definition test (R2 to R4, O23) -/

namespace Sys2Proof.Machine

/-! Each decoder is the inverse of the encoding. -/

theorem decodePolarity_eq_some {b : Byte} {x : Polarity} : decodePolarity b = some x ↔ b = x.byte := by
  unfold decodePolarity
  split <;> cases x <;> simp_all [Polarity.byte]

theorem decodeLifetime_eq_some {b : Byte} {x : Lifetime} : decodeLifetime b = some x ↔ b = x.byte := by
  unfold decodeLifetime
  split <;> cases x <;> simp_all [Lifetime.byte]

theorem decodePolicy_eq_some {b : Byte} {x : Policy} : decodePolicy b = some x ↔ b = x.byte := by
  unfold decodePolicy
  split <;> cases x <;> simp_all [Policy.byte]

theorem decodeShare_eq_some {b : Byte} {x : Share} : decodeShare b = some x ↔ b = x.byte := by
  unfold decodeShare
  split <;> cases x <;> simp_all [Share.byte]

theorem decodeAnalogInput_eq_some {b : Byte} {n : AnalogInput} : decodeAnalogInput b = some n ↔ b.toNat = n.val := by
  unfold decodeAnalogInput
  split
  · simp [Fin.ext_iff]
  · simp only [reduceCtorEq, false_iff]
    omega

theorem decodeTimingInput_eq_some {b : Byte} {n : TimingInput} : decodeTimingInput b = some n ↔ b.toNat = n.val := by
  unfold decodeTimingInput
  split
  · simp [Fin.ext_iff]
  · simp only [reduceCtorEq, false_iff]
    omega

theorem decodeRange_eq_some {b : Byte} {r : Fin 4} : decodeRange b = some r ↔ b.toNat = r.val := by
  unfold decodeRange
  split
  · simp [Fin.ext_iff]
  · simp only [reduceCtorEq, false_iff]
    omega

/-! An encoding with two values has the bytes 0 and 1. -/

theorem toNat_lt_two_iff {b : Byte} : b.toNat < 2 ↔ b = 0 ∨ b = 1 := by bv_omega

theorem exists_polarity_byte {b : Byte} : (∃ x : Polarity, b = x.byte) ↔ b.toNat < 2 := by
  rw [toNat_lt_two_iff]
  exact ⟨fun ⟨x, hx⟩ => by cases x; exacts [.inl hx, .inr hx], fun h => h.elim (⟨.rising, ·⟩) (⟨.falling, ·⟩)⟩

theorem exists_lifetime_byte {b : Byte} : (∃ x : Lifetime, b = x.byte) ↔ b.toNat < 2 := by
  rw [toNat_lt_two_iff]
  exact ⟨fun ⟨x, hx⟩ => by cases x; exacts [.inl hx, .inr hx], fun h => h.elim (⟨.standing, ·⟩) (⟨.once, ·⟩)⟩

theorem exists_policy_byte {b : Byte} : (∃ x : Policy, b = x.byte) ↔ b.toNat < 2 := by
  rw [toNat_lt_two_iff]
  exact ⟨fun ⟨x, hx⟩ => by cases x; exacts [.inl hx, .inr hx], fun h => h.elim (⟨.hold, ·⟩) (⟨.drop, ·⟩)⟩

theorem exists_share_byte {b : Byte} : (∃ x : Share, b = x.byte) ↔ b.toNat < 2 := by
  rw [toNat_lt_two_iff]
  exact ⟨fun ⟨x, hx⟩ => by cases x; exacts [.inl hx, .inr hx], fun h => h.elim (⟨.closed, ·⟩) (⟨.shared, ·⟩)⟩

/-! ### Measures and starts -/

/-- The kind of a timing measurement. -/
def TimingKind.kind : TimingKind → Kind
  | .period => .period
  | .highTime => .highTime
  | .edgeCount => .edgeCount

theorem Measure.kind_timing (k : TimingKind) (n : TimingInput) (pol : Polarity) (span : Nat) :
    (Measure.timing k n pol span).kind = k.kind := by cases k <;> rfl

/-- The bounds of a gate or limit (R2). -/
def TimingKind.allows (k : TimingKind) (span : Nat) : Prop := 1 ≤ span ∧ (k ≠ .edgeCount → span ≤ 60000)

/-- What a block's kind, input and range or polarity are for a measure. -/
def CarriesMeasure (b : DefBlock) : Measure → Prop
  | .level n r d => b.kind = 0 ∧ b.input.toNat = n.val ∧ b.rangeOrPolarity.toNat = r.val ∧ d = b.settle.toNat
  | .timing k n pol span => b.kind = k.kind.byte ∧ b.input.toNat = n.val ∧ b.rangeOrPolarity = pol.byte ∧
      k.allows span ∧ span = b.gateOrLimit.toNat

theorem limitedMeasure_eq_some {b : DefBlock} {k : TimingKind} {m : Measure} : limitedMeasure b k = some m ↔
    ∃ n pol, m = .timing k n pol b.gateOrLimit.toNat ∧ b.input.toNat = n.val ∧ b.rangeOrPolarity = pol.byte ∧
      1 ≤ b.gateOrLimit.toNat ∧ b.gateOrLimit.toNat ≤ 60000 := by
  constructor
  · intro h
    unfold limitedMeasure at h
    split at h
    · rename_i n pol hn hpol
      split at h
      · rename_i hg
        cases h
        exact ⟨n, pol, rfl, decodeTimingInput_eq_some.mp hn, decodePolarity_eq_some.mp hpol, hg⟩
      · cases h
    · cases h
  · rintro ⟨n, pol, rfl, hn, hpol, hg⟩
    simp [limitedMeasure, decodeTimingInput_eq_some.mpr hn, decodePolarity_eq_some.mpr hpol, hg]

/-- The measure that a block carries, by its kind (R2, R4). -/
theorem blockMeasure_eq_some {b : DefBlock} {m : Measure} : blockMeasure b = some m ↔ CarriesMeasure b m := by
  constructor
  · intro h
    unfold blockMeasure at h
    split at h
    · rename_i hk
      split at h
      · rename_i n r hn hr
        cases h
        exact ⟨hk, decodeAnalogInput_eq_some.mp hn, decodeRange_eq_some.mp hr, rfl⟩
      · cases h
    · rename_i hk
      obtain ⟨n, pol, rfl, hn, hpol, hlow, hhigh⟩ := limitedMeasure_eq_some.mp h
      exact ⟨hk, hn, hpol, ⟨hlow, fun _ => hhigh⟩, rfl⟩
    · rename_i hk
      obtain ⟨n, pol, rfl, hn, hpol, hlow, hhigh⟩ := limitedMeasure_eq_some.mp h
      exact ⟨hk, hn, hpol, ⟨hlow, fun _ => hhigh⟩, rfl⟩
    · rename_i hk
      split at h
      · rename_i n pol hn hpol
        split at h
        · rename_i hg
          cases h
          exact ⟨hk, decodeTimingInput_eq_some.mp hn, decodePolarity_eq_some.mp hpol, ⟨hg, absurd rfl⟩, rfl⟩
        · cases h
      · cases h
    · cases h
  · intro h
    cases m with
    | level n r d =>
      obtain ⟨hk, hn, hr, rfl⟩ := h
      simp [blockMeasure, hk, decodeAnalogInput_eq_some.mpr hn, decodeRange_eq_some.mpr hr]
    | timing k n pol span =>
      obtain ⟨hk, hn, hpol, ⟨hlow, hhigh⟩, rfl⟩ := h
      cases k with
      | period =>
        have hl := limitedMeasure_eq_some (k := .period).mpr ⟨n, pol, rfl, hn, hpol, hlow, hhigh nofun⟩
        rw [blockMeasure, hk]
        exact hl
      | highTime =>
        have hl := limitedMeasure_eq_some (k := .highTime).mpr ⟨n, pol, rfl, hn, hpol, hlow, hhigh nofun⟩
        rw [blockMeasure, hk]
        exact hl
      | edgeCount =>
        rw [blockMeasure, hk]
        simp [TimingKind.kind, Kind.byte, decodeTimingInput_eq_some.mpr hn, decodePolarity_eq_some.mpr hpol, hlow]

/-- What a block's start and interval are for a start. -/
def CarriesStart (b : DefBlock) (st : Start) : Prop :=
  b.start = st.byte ∧ ∀ n, st = .interval n → n = b.interval.toNat ∧ 1 ≤ n

theorem blockStart_eq_some {b : DefBlock} {st : Start} : blockStart b = some st ↔ CarriesStart b st := by
  constructor
  · intro h
    unfold blockStart at h
    split at h
    · rename_i hs
      split at h
      · rename_i hi
        cases h
        refine ⟨hs, fun n hn => ?_⟩
        cases hn
        exact ⟨rfl, hi⟩
      · cases h
    · rename_i hs
      cases h
      exact ⟨hs, nofun⟩
    · rename_i hs
      cases h
      exact ⟨hs, nofun⟩
    · rename_i hs
      cases h
      exact ⟨hs, nofun⟩
    · cases h
  · rintro ⟨hs, hi⟩
    cases st with
    | interval n =>
      obtain ⟨rfl, hlow⟩ := hi n rfl
      simp [blockStart, hs, Start.byte, hlow]
    | trg l => cases l <;> simp [blockStart, hs, Start.byte]
    | command => simp [blockStart, hs, Start.byte]

/-- What a block is for a contract (R2, R4). -/
structure CarriesContract (b : DefBlock) (c : Contract) : Prop where
  measure : CarriesMeasure b c.measure
  start : CarriesStart b c.start
  lifetime : b.lifetime = c.lifetime.byte
  policy : b.policy = c.policy.byte
  share : b.share = c.share.byte
  qualify : c.qualify = b.qualify.toNat ∧ 1 ≤ b.qualify.toNat ∧ b.qualify.toNat ≤ 16
  notify : c.notify = b.notify.setWidth 5 ∧ b.notify.toNat < 32
  reserved : b.reserved = 0

theorem blockContract_eq_some {b : DefBlock} {c : Contract} : blockContract b = some c ↔ CarriesContract b c := by
  constructor
  · intro h
    unfold blockContract at h
    split at h
    · rename_i m st life pol sh hm hs hl hp hsh
      split at h
      · rename_i hg
        obtain ⟨hlow, hhigh, hn, hr⟩ := hg
        cases h
        exact ⟨blockMeasure_eq_some.mp hm, blockStart_eq_some.mp hs, decodeLifetime_eq_some.mp hl, decodePolicy_eq_some.mp hp,
          decodeShare_eq_some.mp hsh, ⟨rfl, hlow, hhigh⟩, ⟨rfl, hn⟩, hr⟩
      · cases h
    · cases h
  · obtain ⟨m, st, life, pol, q, n, sh⟩ := c
    rintro ⟨hm, hs, hl, hp, hsh, ⟨rfl, hlow, hhigh⟩, ⟨rfl, hnotify⟩, hr⟩
    simp [blockContract, blockMeasure_eq_some.mpr hm, blockStart_eq_some.mpr hs, decodeLifetime_eq_some.mpr hl,
      decodePolicy_eq_some.mpr hp, decodeShare_eq_some.mpr hsh, hlow, hhigh, hnotify, hr]

/-! ### Which blocks are valid -/

theorem exists_carriesMeasure (b : DefBlock) : (∃ m, CarriesMeasure b m) ↔
    b.kind.toNat < 4 ∧ (b.kind = 0 → b.input.toNat < 16 ∧ b.rangeOrPolarity.toNat < 4) ∧
      (b.kind ≠ 0 → b.input.toNat < 8 ∧ b.rangeOrPolarity.toNat < 2 ∧ 1 ≤ b.gateOrLimit.toNat) ∧
      (b.kind = 1 ∨ b.kind = 2 → b.gateOrLimit.toNat ≤ 60000) := by
  constructor
  · rintro ⟨m, h⟩
    cases m with
    | level n r d =>
      obtain ⟨hk, hn, hr, -⟩ := h
      rw [hk]
      exact ⟨by decide, fun _ => ⟨by omega, by omega⟩, absurd rfl, fun h => by rcases h with h | h <;> cases h⟩
    | timing k n pol span =>
      obtain ⟨hk, hn, hpol, ⟨hlow, hhigh⟩, rfl⟩ := h
      have hp := exists_polarity_byte.mp ⟨pol, hpol⟩
      rw [hk]
      refine ⟨by cases k <;> decide, fun h => ?_, fun _ => ⟨by omega, hp, hlow⟩, fun h => hhigh ?_⟩
      · cases k <;> cases h
      · rintro rfl
        rcases h with h | h <;> cases h
  · rintro ⟨hk, hlevel, htiming, hlimit⟩
    by_cases h0 : b.kind = 0
    · obtain ⟨hn, hr⟩ := hlevel h0
      exact ⟨.level ⟨_, hn⟩ ⟨_, hr⟩ _, h0, rfl, rfl, rfl⟩
    · obtain ⟨hn, hp, hlow⟩ := htiming h0
      obtain ⟨pol, hpol⟩ := exists_polarity_byte.mpr hp
      have hkind : b.kind = 1 ∨ b.kind = 2 ∨ b.kind = 3 := by bv_omega
      rcases hkind with h | h | h
      · exact ⟨.timing .period ⟨_, hn⟩ pol _, h, rfl, hpol, ⟨hlow, fun _ => hlimit (.inl h)⟩, rfl⟩
      · exact ⟨.timing .highTime ⟨_, hn⟩ pol _, h, rfl, hpol, ⟨hlow, fun _ => hlimit (.inr h)⟩, rfl⟩
      · exact ⟨.timing .edgeCount ⟨_, hn⟩ pol _, h, rfl, hpol, ⟨hlow, absurd rfl⟩, rfl⟩

theorem exists_carriesStart (b : DefBlock) : (∃ st, CarriesStart b st) ↔
    b.start.toNat < 4 ∧ (b.start = 0 → 1 ≤ b.interval.toNat) := by
  constructor
  · rintro ⟨st, hs, hi⟩
    rw [hs]
    cases st with
    | interval n =>
      obtain ⟨rfl, hlow⟩ := hi n rfl
      exact ⟨show (0 : Byte).toNat < 4 by decide, fun _ => hlow⟩
    | trg l => cases l <;> exact ⟨by decide, nofun⟩
    | command => exact ⟨by decide, nofun⟩
  · rintro ⟨hs, hi⟩
    have hstart : b.start = 0 ∨ b.start = 1 ∨ b.start = 2 ∨ b.start = 3 := by bv_omega
    rcases hstart with h | h | h | h
    · refine ⟨.interval b.interval.toNat, h, fun n hn => ?_⟩
      cases hn
      exact ⟨rfl, hi h⟩
    · exact ⟨.trg .trg0, h, nofun⟩
    · exact ⟨.trg .trg1, h, nofun⟩
    · exact ⟨.command, h, nofun⟩

theorem blockContract_isSome (b : DefBlock) : (blockContract b).isSome = true ↔
    (∃ m, CarriesMeasure b m) ∧ (∃ st, CarriesStart b st) ∧ b.lifetime.toNat < 2 ∧ b.policy.toNat < 2 ∧ b.share.toNat < 2 ∧
      1 ≤ b.qualify.toNat ∧ b.qualify.toNat ≤ 16 ∧ b.notify.toNat < 32 ∧ b.reserved = 0 := by
  simp only [Option.isSome_iff_exists, blockContract_eq_some]
  constructor
  · rintro ⟨c, hm, hs, hl, hp, hsh, ⟨-, hlow, hhigh⟩, ⟨-, hn⟩, hr⟩
    exact ⟨⟨_, hm⟩, ⟨_, hs⟩, exists_lifetime_byte.mp ⟨_, hl⟩, exists_policy_byte.mp ⟨_, hp⟩, exists_share_byte.mp ⟨_, hsh⟩,
      hlow, hhigh, hn, hr⟩
  · rintro ⟨⟨m, hm⟩, ⟨st, hs⟩, hl, hp, hsh, hlow, hhigh, hn, hr⟩
    obtain ⟨life, hlife⟩ := exists_lifetime_byte.mpr hl
    obtain ⟨pol, hpol⟩ := exists_policy_byte.mpr hp
    obtain ⟨share, hshare⟩ := exists_share_byte.mpr hsh
    exact ⟨⟨m, st, life, pol, b.qualify.toNat, b.notify.setWidth 5, share⟩, hm, hs, hlife, hpol, hshare, ⟨rfl, hlow, hhigh⟩,
      ⟨rfl, hn⟩, hr⟩

/-! ### Banks -/

theorem decodeBank_eq_some_none {x : BankBlock} {limits : Int × Int} : decodeBank x limits = some none ↔ x.present = 0 := by
  unfold decodeBank
  split
  · simp_all
  · split <;> simp_all
  · simp_all

theorem bankThreshold_valid_iff {t : Threshold} {lo hi : Int} : (t.ordered && t.within (lo, hi)) = true ↔
    t.low < t.high ∧ 0 ≤ t.hysteresis ∧ t.hysteresis ≤ t.high - t.low ∧ lo ≤ t.low ∧ t.high ≤ hi ∧ lo ≤ t.hysteresis ∧
      t.hysteresis ≤ hi := by
  simp only [Threshold.ordered, Threshold.within, Bool.and_eq_true, decide_eq_true_eq]
  omega

theorem decodeBank_eq_some_some {x : BankBlock} {lo hi : Int} {t : Threshold} : decodeBank x (lo, hi) = some (some t) ↔
    x.present = 1 ∧ t = bankThreshold x ∧ t.low < t.high ∧ 0 ≤ t.hysteresis ∧ t.hysteresis ≤ t.high - t.low ∧
      lo ≤ t.low ∧ t.high ≤ hi ∧ lo ≤ t.hysteresis ∧ t.hysteresis ≤ hi := by
  rw [← bankThreshold_valid_iff]
  constructor
  · intro h
    unfold decodeBank at h
    split at h
    · cases h
    · rename_i hp
      split at h
      · rename_i ht
        cases h
        exact ⟨hp, rfl, ht⟩
      · cases h
    · cases h
  · rintro ⟨hp, rfl, ht⟩
    rw [decodeBank, hp]
    exact if_pos ht

/-- What the fields of a block give, by the block. -/
theorem CarriesMeasure.level {b : DefBlock} {m : Measure} (h : CarriesMeasure b m) (hk : b.kind = 0) :
    ∃ n r, m = .level n r b.settle.toNat ∧ n.val = b.input.toNat ∧ r.val = b.rangeOrPolarity.toNat := by
  cases m with
  | level n r d =>
    obtain ⟨-, hn, hr, rfl⟩ := h
    exact ⟨n, r, rfl, hn.symm, hr.symm⟩
  | timing k n pol span =>
    obtain ⟨hk', -⟩ := h
    rw [hk'] at hk
    cases k <;> cases hk

theorem CarriesMeasure.timing {b : DefBlock} {m : Measure} (h : CarriesMeasure b m) (hk : b.kind ≠ 0) :
    ∃ k n pol, m = .timing k n pol b.gateOrLimit.toNat ∧
      (k = if b.kind = 1 then .period else if b.kind = 2 then .highTime else .edgeCount) ∧
      n.val = b.input.toNat ∧ (pol = if b.rangeOrPolarity = 0 then .rising else .falling) := by
  cases m with
  | level n r d => exact absurd h.1 hk
  | timing k n pol span =>
    obtain ⟨hk', hn, hpol, -, rfl⟩ := h
    refine ⟨k, n, pol, rfl, ?_, hn.symm, ?_⟩
    · rw [hk']
      cases k <;> rfl
    · rw [hpol]
      cases pol <;> rfl

theorem CarriesStart.eq_of_byte {b : DefBlock} {st : Start} (h : CarriesStart b st) :
    (b.start = 0 → st = .interval b.interval.toNat) ∧ (b.start = 1 → st = .trg .trg0) ∧ (b.start = 2 → st = .trg .trg1) ∧
      (b.start = 3 → st = .command) := by
  obtain ⟨hs, hi⟩ := h
  rw [hs]
  cases st with
  | interval n => exact ⟨fun _ => by rw [(hi n rfl).1], nofun, nofun, nofun⟩
  | trg l => cases l <;> exact ⟨nofun, by simp [Start.byte], by simp [Start.byte], by simp [Start.byte]⟩
  | command => exact ⟨nofun, nofun, nofun, fun _ => rfl⟩

/-- Settles O23: the test read field by field. -/
theorem definitionTestReadsTheBlock : Obligations.DefinitionTestReadsTheBlock := by
  refine ⟨fun b => ?valid, fun b c hc => ?contract, fun b c k => blockCreation_eq_some,
    fun x lo hi => ⟨decodeBank_eq_some_none, fun t => decodeBank_eq_some_some⟩, rfl, by simp [Kind.limits]⟩
  case valid =>
    rw [blockContract_isSome, exists_carriesMeasure, exists_carriesStart]
    simp only [and_assoc]
  case contract =>
    obtain ⟨hm, hs, hl, hp, hsh, ⟨hq, -, -⟩, ⟨hn, -⟩, -⟩ := blockContract_eq_some.mp hc
    obtain ⟨h0, h1, h2, h3⟩ := hs.eq_of_byte
    refine ⟨hm.level, hm.timing, h0, h1, h2, h3, ?_, ?_, ?_, hq, hn⟩
    · rw [hl]
      cases c.lifetime <;> rfl
    · rw [hp]
      cases c.policy <;> rfl
    · rw [hsh]
      cases c.share <;> rfl

end Sys2Proof.Machine

/-! ### READ WATCH and READ VALUE (R16, R43, R44, O6) -/

namespace Sys2Proof.Machine

/-! Bytes at a place of joined lists. -/

@[simp] theorem length_halfBytes (v : Half) : (halfBytes v).length = 2 := rfl

@[simp] theorem length_wordBytes (v : Word) : (wordBytes v).length = 4 := rfl

@[simp] theorem length_inputBytes (m : Measure) : m.inputBytes.length = 2 := by cases m <;> rfl

@[simp] theorem length_bankBytes (k : Option Threshold) : (bankBytes k).length = 13 := by cases k <;> rfl

@[simp] theorem length_outcomeBytes (o : Option Outcome) : (outcomeBytes o).length = 10 := by cases o <;> rfl

@[simp] theorem length_candidateBytes (k : Option Candidate) : (candidateBytes k).length = 2 := by cases k <;> rfl

@[simp] theorem length_dueBytes (d : Option DeviceTime) : (dueBytes d).length = 5 := by cases d <;> rfl

theorem wordAt_of_bytes {as : List Byte} {k : Nat} {v : Word} (h : ∀ j < 4, byteAt as (k + j) = byteAt (wordBytes v) j) :
    wordAt as k = v := by
  have hk : ∀ j < 4, byteAt as (k + j) = byteAt (wordBytes v) (0 + j) := fun j hj => (h j hj).trans (by rw [Nat.zero_add])
  refine Eq.trans ?_ (wordAt_wordBytes v)
  simp only [wordAt, halfAt, Nat.add_assoc]
  rw [hk 1 (by decide), hk 2 (by decide), hk (2 + 1) (by decide), show byteAt as k = byteAt (wordBytes v) 0 from hk 0 (by decide)]

/-! ### READ WATCH -/

/-- The definition block of the reply, field by field (R179). -/
theorem blockAt_readWatchData (e : Entry) (w : Watch) :
    let b := blockAt (readWatchData e w) 0
    let c := w.defn.contract
    b.kind = c.measure.kind.byte ∧ [b.input, b.rangeOrPolarity] = c.measure.inputBytes ∧ b.start = c.start.byte ∧
      b.lifetime = c.lifetime.byte ∧ b.policy = c.policy.byte ∧ b.share = c.share.byte ∧ b.settle = c.measure.settleByte ∧
      b.interval = c.start.intervalHalf ∧ b.gateOrLimit = c.measure.spanHalf ∧ b.qualify = byteOf c.qualify ∧
      b.notify = c.notify.setWidth 8 ∧ b.reserved = 0 := by
  have hin : ∃ x y, w.defn.contract.measure.inputBytes = [x, y] := by cases w.defn.contract.measure <;> exact ⟨_, _, rfl⟩
  obtain ⟨x, y, hxy⟩ := hin
  dsimp only
  simp only [readWatchData, Definition.bytes, hxy, blockAt]
  refine ⟨rfl, rfl, rfl, rfl, rfl, rfl, rfl, halfBytes_joined _, halfBytes_joined _, rfl, rfl, ?_⟩
  cases w.defn.bankA <;> rfl

theorem toNat_byteOf {n : Nat} (h : n < 256) : (byteOf n).toNat = n := by simp [byteOf, Nat.mod_eq_of_lt h]

/-- The block of the reply carries the contract again. -/
theorem carriesContract_readWatchData {b : DefBlock} (e : Entry) (w : Watch) (h : CarriesContract b w.defn.contract) :
    CarriesContract (blockAt (readWatchData e w) 0) w.defn.contract := by
  obtain ⟨hkind, hin, hstart, hlife, hpol, hshare, hsettle, hinterval, hspan, hqualify, hnotify, hres⟩ := blockAt_readWatchData e w
  generalize blockAt (readWatchData e w) 0 = B at *
  refine ⟨?_, ⟨hstart, fun n hn => ?_⟩, hlife, hpol, hshare, ?_, ?_, hres⟩
  · have hm := h.measure
    cases hmeasure : w.defn.contract.measure with
    | level n r d =>
      rw [hmeasure] at hm hkind hin hsettle
      obtain ⟨-, -, -, hd⟩ := hm
      simp only [Measure.inputBytes, List.cons.injEq, and_true] at hin
      refine ⟨hkind, ?_, ?_, ?_⟩
      · rw [hin.1, toNat_byteOf (by omega)]
      · rw [hin.2, toNat_byteOf (by omega)]
      · rw [hsettle, Measure.settleByte, toNat_byteOf (hd ▸ b.settle.isLt)]
    | timing k n pol span =>
      rw [hmeasure] at hm hkind hin hspan
      obtain ⟨-, -, -, hallows, hs⟩ := hm
      simp only [Measure.inputBytes, List.cons.injEq, and_true] at hin
      refine ⟨by rw [hkind, Measure.kind_timing], ?_, hin.2, hallows, ?_⟩
      · rw [hin.1, toNat_byteOf (by omega)]
      · rw [hspan, Measure.spanHalf, BitVec.toNat_ofNat, Nat.mod_eq_of_lt (hs ▸ b.gateOrLimit.isLt)]
  · obtain ⟨hi, hlow⟩ := h.start.2 n hn
    refine ⟨?_, hlow⟩
    rw [hinterval, hn, Start.intervalHalf, BitVec.toNat_ofNat, Nat.mod_eq_of_lt (hi ▸ b.interval.isLt)]
  · obtain ⟨hq, hlow, hhigh⟩ := h.qualify
    rw [hqualify, toNat_byteOf (by omega)]
    exact ⟨rfl, hq ▸ hlow, hq ▸ hhigh⟩
  · rw [hnotify]
    have hlt := w.defn.contract.notify.isLt
    exact ⟨by simp, by rw [BitVec.toNat_setWidth]; omega⟩

/-- A bank of the reply reads back, where its values are words (R179). -/
theorem bank_reported {data : List Byte} {k : Nat} {bank : Option Threshold}
    (h : ∀ j < 13, byteAt data (k + j) = byteAt (bankBytes bank) j) :
    (bank = none → ∀ j, j < 13 → byteAt data (k + j) = 0) ∧
      (∀ t, bank = some t → (-2 ^ 31 ≤ t.low ∧ t.low < 2 ^ 31) → (-2 ^ 31 ≤ t.high ∧ t.high < 2 ^ 31) →
        (-2 ^ 31 ≤ t.hysteresis ∧ t.hysteresis < 2 ^ 31) → byteAt data k = 1 ∧ bankThreshold (bankAt data k) = t) := by
  constructor
  · rintro rfl j hj
    rw [h j hj]
    simp only [bankBytes, byteAt, List.getD_replicate _ hj]
  · rintro t rfl hl hh hy
    have hword : ∀ (i : Nat) (x : Int), i + 3 < 13 → (∀ j < 4, byteAt (bankBytes (some t)) (i + j) = byteAt (intBytes x) j) →
        -2 ^ 31 ≤ x ∧ x < 2 ^ 31 → (wordAt data (k + i)).toInt = x := fun i x hi hx hr => by
      rw [wordAt_of_bytes (v := BitVec.ofInt 32 x) fun j hj => by rw [Nat.add_assoc, h (i + j) (by omega)]; exact hx j hj]
      exact BitVec.toInt_ofInt_eq_self (by decide) hr.1 hr.2
    refine ⟨h 0 (by decide), ?_⟩
    simp only [bankThreshold, bankAt]
    rw [hword 1 t.low (by decide) (fun j hj => ?_) hl, hword 5 t.high (by decide) (fun j hj => ?_) hh,
      hword 9 t.hysteresis (by decide) (fun j hj => ?_) hy]
    all_goals
      interval_cases j <;> rfl

theorem exec_readWatch (p : Port) (tag : Byte) (h : Handle) (s : State) :
    exec (.readWatch p tag h) s = .next (s.command p tag 2 true fun s => s.withWatch p h true (readWatchAt s)) := rfl

theorem exec_readValue (p : Port) (tag : Byte) (h : Handle) (s : State) :
    exec (.readValue p tag h) s = .next (s.command p tag 2 true fun s => s.withWatch p h true (readValueAt s p)) := rfl

theorem ownerStatus_reads {p : Port} {w : Watch} (h : w.defn.owner = p ∨ w.defn.contract.share = .shared) :
    ownerStatus p true w = none := by
  unfold ownerStatus
  rcases h with h | h <;> simp [h]

section
variable {s : State} {p : Port} {h : Handle} {i : EntryIndex} {w : Watch} (ha : s.accepts p = true) (hn : s.Names h i w)
  (ho : w.defn.owner = p ∨ w.defn.contract.share = .shared)
include ha hn ho

theorem answers_readWatch (tag : Byte) :
    Answers (.readWatch p tag h) s p tag .ok (readWatchData (s.entry i) w) s := by
  refine answers_ok (exec_readWatch p tag h s) ha fun v => ?_
  rw [State.withWatch_of_names (hn.setPort p v) (ownerStatus_reads ho), readWatchAt, State.setPort_entry]

theorem answers_readValue_owner (tag : Byte) (hp : w.defn.owner = p) :
    Answers (.readValue p tag h) s p tag .ok (readValueData (s.entry i) w s.now)
      (s.withWatchAt i { w with dyn := { w.dyn with overruns := 0 } }) := by
  refine answers_ok (exec_readValue p tag h s) ha fun v => ?_
  rw [State.withWatch_of_names (hn.setPort p v) (ownerStatus_reads ho), readValueAt, if_pos hp, State.setPort_entry,
    State.setPort_now, State.updateWatch_setPort, State.updateWatch_of_watch hn.watch]

theorem answers_readValue_other (tag : Byte) (hp : w.defn.owner ≠ p) :
    Answers (.readValue p tag h) s p tag .ok (readValueData (s.entry i) w s.now) s := by
  refine answers_ok (exec_readValue p tag h s) ha fun v => ?_
  rw [State.withWatch_of_names (hn.setPort p v) (ownerStatus_reads ho), readValueAt, if_neg hp, State.setPort_entry,
    State.setPort_now]

end

/-- The dynamic part of the reply, by its nine segments (R180). -/
theorem byteAt_readValueData (e : Entry) (w : Watch) (now : DeviceTime) :
    let data := readValueData e w now
    (∀ j < 10, byteAt data j = byteAt (outcomeBytes w.dyn.outcome) j) ∧
      halfAt data 10 = w.dyn.sequence ∧ byteAt data 12 = w.dyn.condition.byte ∧
      (∀ j < 2, byteAt data (13 + j) = byteAt (candidateBytes w.dyn.candidate) j) ∧
      byteAt data 15 = flagByte w.dyn.swapPending ∧ byteAt data 16 = flagByte w.dyn.heldTrigger ∧
      byteAt data 17 = byteOf w.dyn.overruns ∧ (∀ j < 5, byteAt data (18 + j) = byteAt (dueBytes w.dyn.due) j) ∧
      byteAt data 23 = e.activity.byte ∧ wordAt data 24 = now := by
  dsimp only
  have hsplit : readValueData e w now = outcomeBytes w.dyn.outcome ++ (halfBytes w.dyn.sequence ++ ([w.dyn.condition.byte] ++
      (candidateBytes w.dyn.candidate ++ ([flagByte w.dyn.swapPending, flagByte w.dyn.heldTrigger, byteOf w.dyn.overruns] ++
        (dueBytes w.dyn.due ++ ([e.activity.byte] ++ wordBytes now)))))) := by simp [readValueData]
  rw [hsplit]
  generalize hlast : [e.activity.byte] ++ wordBytes now = last
  generalize hflags : [flagByte w.dyn.swapPending, flagByte w.dyn.heldTrigger, byteOf w.dyn.overruns] ++
    (dueBytes w.dyn.due ++ last) = flags
  generalize hcondition : [w.dyn.condition.byte] ++ (candidateBytes w.dyn.candidate ++ flags) = condition
  have h12 : ∀ k, byteAt (outcomeBytes w.dyn.outcome ++ (halfBytes w.dyn.sequence ++ condition)) (12 + k) = byteAt condition k :=
    fun k => by
      rw [show 12 + k = 10 + (2 + k) by omega, byteAt_append_add (length_outcomeBytes _), byteAt_append_add (length_halfBytes _)]
  have h15 : ∀ k, byteAt condition (3 + k) = byteAt flags k := fun k => by
    rw [← hcondition, show 3 + k = 1 + (2 + k) by omega, byteAt_append_add (n := 1) rfl, byteAt_append_add (length_candidateBytes _)]
  have h23 : ∀ k, byteAt flags (8 + k) = byteAt last k := fun k => by
    rw [← hflags, show 8 + k = 3 + (5 + k) by omega, byteAt_append_add (n := 3) rfl, byteAt_append_add (length_dueBytes _)]
  refine ⟨fun j hj => byteAt_append_left (by simpa using hj), ?_, ?_, fun j hj => ?_, ?_, ?_, ?_, fun j hj => ?_, ?_, ?_⟩
  · exact (halfAt_append_add (length_outcomeBytes _) 0).trans ((halfAt_append_left (by simp)).trans (halfAt_halfBytes _))
  · rw [show 12 = 12 + 0 from rfl, h12, ← hcondition]
    rfl
  · rw [show 13 + j = 12 + (1 + j) by omega, h12, ← hcondition, byteAt_append_add (n := 1) rfl,
      byteAt_append_left (by simpa using hj)]
  · rw [show 15 = 12 + (3 + 0) from rfl, h12, h15, ← hflags]
    rfl
  · rw [show 16 = 12 + (3 + 1) from rfl, h12, h15, ← hflags]
    rfl
  · rw [show 17 = 12 + (3 + 2) from rfl, h12, h15, ← hflags]
    rfl
  · rw [show 18 + j = 12 + (3 + (3 + j)) by omega, h12, h15, ← hflags, byteAt_append_add (n := 3) rfl,
      byteAt_append_left (by simpa using hj)]
  · rw [show 23 = 12 + (3 + (8 + 0)) from rfl, h12, h15, h23, ← hlast]
    rfl
  · refine wordAt_of_bytes fun j hj => ?_
    rw [show 24 + j = 12 + (3 + (8 + (1 + j))) by omega, h12, h15, h23, ← hlast, byteAt_append_add (n := 1) rfl]

/-- The parts of READ WATCH data after the definition block (R180). -/
theorem byteAt_readWatchData (e : Entry) (w : Watch) :
    let data := readWatchData e w
    (∀ j < 13, byteAt data (14 + j) = byteAt (bankBytes w.defn.bankA) j) ∧
      (∀ j < 13, byteAt data (33 + j) = byteAt (bankBytes w.defn.bankB) j) ∧
      ∀ j < 5, byteAt data (28 + j) =
        byteAt [portByte w.defn.owner, e.state.byte, e.activity.byte, w.defn.active.byte, flagByte w.dyn.swapPending] j := by
  have hlen : w.defn.bytes.length = 28 := by simp [Definition.bytes]
  dsimp only
  rw [readWatchData]
  refine ⟨fun j hj => ?_, fun j hj => ?_, fun j hj => ?_⟩
  · rw [byteAt_append_left (by simp [hlen]; omega), byteAt_append_left (by omega), Definition.bytes,
      byteAt_append_left (by simp; omega), byteAt_append_add (by simp)]
  · rw [show 33 + j = 33 + j from rfl, byteAt_append_add (by simp [hlen])]
  · rw [byteAt_append_left (by simp [hlen]; omega), byteAt_append_add hlen]

theorem length_readWatchData (e : Entry) (w : Watch) : (readWatchData e w).length = 46 := by
  simp [readWatchData, Definition.bytes]

theorem length_readValueData (e : Entry) (w : Watch) (now : DeviceTime) : (readValueData e w now).length = 28 := by
  simp [readValueData]

theorem readWatchData_absent (e : Entry) (w : Watch) :
    (∀ n r d, w.defn.contract.measure = .level n r d → halfAt (readWatchData e w) 10 = 0) ∧
      (∀ k n pol span, w.defn.contract.measure = .timing k n pol span → byteAt (readWatchData e w) 7 = 0) ∧
      ((∀ n, w.defn.contract.start ≠ .interval n) → halfAt (readWatchData e w) 8 = 0) := by
  obtain ⟨-, -, -, -, -, -, hsettle, hinterval, hspan, -⟩ := blockAt_readWatchData e w
  refine ⟨fun n r d hm => ?_, fun k n pol span hm => ?_, fun hs => ?_⟩
  · exact hspan.trans (by rw [hm]; rfl)
  · exact hsettle.trans (by rw [hm]; rfl)
  · refine hinterval.trans ?_
    cases hst : w.defn.contract.start with
    | interval n => exact absurd hst (hs n)
    | trg l => rfl
    | command => rfl

/-- Settles O6: every field of the two replies is one segment of the data. -/
theorem watchReadsReportTheEntry : Obligations.WatchReadsReportTheEntry := by
  intro s p tag h i w ha hn ho
  have hactivity : (s.entry i).activity.byte = match (s.entry i).activity with
      | .none => 0 | .queued => 1 | .converting => 2 | .awaitingEngine => 3 | .measuring => 4 := by
    cases (s.entry i).activity <;> rfl
  refine ⟨⟨readWatchData (s.entry i) w, answers_readWatch ha hn ho tag, length_readWatchData _ _, fun b hb => ?_, ?_⟩,
    readValueData (s.entry i) w s.now, answers_readValue_owner ha hn ho tag, answers_readValue_other ha hn ho tag,
    length_readValueData _ _ _, ?_⟩
  · exact blockContract_eq_some.mpr (carriesContract_readWatchData _ _ (blockContract_eq_some.mp hb))
  · obtain ⟨hlevel, htiming, hinterval⟩ := readWatchData_absent (s.entry i) w
    obtain ⟨hbankA, hbankB, htail⟩ := byteAt_readWatchData (s.entry i) w
    refine ⟨hlevel, htiming, hinterval, bank_reported hbankA, bank_reported hbankB, ?_, ?_, ?_, ?_, ?_⟩
    · refine (htail 0 (by decide)).trans ?_
      show portByte w.defn.owner = _
      cases w.defn.owner <;> rfl
    · refine (htail 1 (by decide)).trans ?_
      show (s.entry i).state.byte = _
      have hst := hn.addressable
      simp only [Entry.addressable, Bool.or_eq_true, decide_eq_true_eq] at hst
      rcases hst with hst | hst <;> rw [hst] <;> rfl
    · exact (htail 2 (by decide)).trans hactivity
    · refine (htail 3 (by decide)).trans ?_
      show w.defn.active.byte = _
      cases w.defn.active <;> rfl
    · exact htail 4 (by decide)
  · obtain ⟨houtcome, hseq, hcond, hcand, hswap, hheld, hover, hdue, hact, hnow⟩ := byteAt_readValueData (s.entry i) w s.now
    refine ⟨fun o hout => ⟨?_, ?_, ?_, ?_⟩, fun hout k hk => ?_, hseq, ?_, fun k hk => ⟨?_, ?_⟩, fun hk => ⟨?_, ?_⟩, hswap, hheld,
      hover, fun d hd => ⟨?_, ?_⟩, fun hd k hk => ?_, hact.trans hactivity, hnow⟩
    · exact (houtcome 0 (by decide)).trans (by rw [hout]; rfl)
    · refine (houtcome 1 (by decide)).trans ?_
      rw [hout]
      show o.status.byte = _
      cases o.status <;> rfl
    · refine wordAt_of_bytes fun j hj => (houtcome (2 + j) (by omega)).trans ?_
      rw [hout]
      interval_cases j <;> rfl
    · refine wordAt_of_bytes fun j hj => (houtcome (6 + j) (by omega)).trans ?_
      rw [hout]
      interval_cases j <;> rfl
    · refine (houtcome k hk).trans ?_
      rw [hout]
      exact List.getD_replicate _ hk
    · refine hcond.trans ?_
      cases w.dyn.condition <;> rfl
    · refine (hcand 0 (by decide)).trans ?_
      rw [hk]
      show k.proposed.byte = _
      cases k.proposed <;> rfl
    · exact (hcand 1 (by decide)).trans (by rw [hk]; rfl)
    · exact (hcand 0 (by decide)).trans (by rw [hk]; rfl)
    · exact (hcand 1 (by decide)).trans (by rw [hk]; rfl)
    · exact (hdue 0 (by decide)).trans (by rw [hd]; rfl)
    · refine wordAt_of_bytes fun j hj => ?_
      rw [show 19 + j = 18 + (1 + j) by omega]
      refine (hdue (1 + j) (by omega)).trans ?_
      rw [hd]
      interval_cases j <;> rfl
    · refine (hdue k hk).trans ?_
      rw [hd]
      exact List.getD_replicate _ hk

end Sys2Proof.Machine

section
/-! The port commands as a family: what each is before its owning block is looked at (R13, R15, R168, R170), and CREATE WATCH. -/

namespace Sys2Proof.Machine

/-! ### A port command is a `State.command` -/

/-- Every port command is handed to its owning block by its port; where it names no watch, its parameters are tested before. -/
theorem exec_of_commandParts {i : Instr} {p : Port} {tag code : Byte} {ps : List Byte}
    (hc : commandParts i = some (p, tag, code, ps)) :
    ∃ valid body, (∀ s, exec i s = .next (s.command p tag ps.length valid body)) ∧
      (namesWatch i = none → valid = i.wellFormed) := by
  cases i <;> simp only [commandParts, Option.some.injEq, Prod.mk.injEq, reduceCtorEq] at hc <;>
    obtain ⟨rfl, rfl, rfl, rfl⟩ := hc
  case modifyWatch | writeBank | swapBank | arm | disarm | retire | sample | readWatch | readValue =>
    exact ⟨_, _, fun s => rfl, nofun⟩
  all_goals exact ⟨_, _, fun s => rfl, fun _ => rfl⟩

/-- A command that names a watch makes the handle and ownership checks in its owning block, once its other parameters are valid. -/
theorem exec_of_namesWatch {c : Instr} {p : Port} {tag : Byte} {h : Handle} (hc : namesWatch c = some (p, tag, h)) :
    ∃ len valid body, (∀ s, exec c s = .next (s.command p tag len valid body)) ∧
      c.wellFormed = (handleInRange h && valid) ∧
      (valid = true → ∃ k : State → EntryIndex → Watch → State × Reply,
        ∀ s, body s = s.withWatch p h (readsWatch c) (k s)) := by
  cases c <;> simp only [namesWatch, Option.some.injEq, Prod.mk.injEq, reduceCtorEq] at hc <;>
    obtain ⟨rfl, rfl, rfl⟩ := hc
  case modifyWatch block =>
    refine ⟨_, _, _, fun s => rfl, rfl, fun hv => ?_⟩
    obtain ⟨c, hb⟩ := Option.isSome_iff_exists.mp hv
    exact ⟨fun s => modifyWatchAt s c, fun s => by simp only [modifyWatchBody, hb, readsWatch]⟩
  case writeBank bank =>
    refine ⟨_, _, _, fun s => rfl, rfl, fun hv => ?_⟩
    obtain ⟨k, hb⟩ := Option.isSome_iff_exists.mp hv
    exact ⟨fun s => writeBankAt s k, fun s => by simp only [writeBankBody, hb, readsWatch]⟩
  all_goals exact ⟨_, _, _, fun s => rfl, (Bool.and_true _).symm, fun _ => ⟨_, fun s => rfl⟩⟩

/-- A command that names a watch, with valid parameters, is refused as its checks say. -/
theorem answers_of_namesWatch {c : Instr} {p : Port} {tag : Byte} {h : Handle} {s : State} {status : Status}
    (hc : namesWatch c = some (p, tag, h)) (ha : s.accepts p = true)
    (hv : c.wellFormed = true ∨ status = .badParameter)
    (hk : ∀ (v : PortState) (k : EntryIndex → Watch → State × Reply),
      (s.setPort p v).withWatch p h (readsWatch c) k = (s.setPort p v, .refuse status)) :
    Answers c s p tag status [] s := by
  obtain ⟨len, valid, body, hx, hw, hbody⟩ := exec_of_namesWatch hc
  cases valid with
  | true =>
    obtain ⟨k, hb⟩ := hbody rfl
    exact answers_refusal (hx s) ha fun v => (hb _).trans (hk v _)
  | false =>
    obtain rfl : status = .badParameter := hv.resolve_left (by simp [hw])
    exact answers_badParameter (hx s) ha

/-- A command whose handle is refused is refused with that status. -/
theorem answers_of_handleStatus {c : Instr} {p : Port} {tag : Byte} {h : Handle} {s : State} {status : Status}
    (hc : namesWatch c = some (p, tag, h)) (ha : s.accepts p = true)
    (hv : c.wellFormed = true ∨ status = .badParameter) (hs : s.handleStatus h = some status) :
    Answers c s p tag status [] s :=
  answers_of_namesWatch hc ha hv fun v k => by simp [State.withWatch, hs]

/-! ### R170: an EXECUTING window -/

/-- A whole request frame on an EXECUTING window marks it and changes nothing but the port (R170). -/
theorem State.command_executing {s : State} {p : Port} {t : Byte} {m : Bool} (hr : s.resetAsserted = false)
    (hw : (s.port p).window = .executing t m) (tag : Byte) (len : Nat) (valid : Bool) (body : State → State × Reply) :
    ((s.command p tag len valid body).port p).window = .executing t true ∧
      (s.command p tag len valid body).setPort p (s.port p) = s := by
  have he : (s.port p).windowAtEnd = .executing t m := by
    unfold PortState.windowAtEnd
    rw [hw]
    split
    · contradiction
    · rfl
  simp [State.command, hr, State.endTransaction, State.drive, State.setWindow, he]

/-- Settles O7: every port command comes to the port as one whole frame, which an EXECUTING window discards. -/
theorem executingWindowDiscardsCommands : Obligations.ExecutingWindowDiscardsCommands := by
  intro i p tag code ps s t m hc hr hw
  obtain ⟨valid, body, hx, -⟩ := exec_of_commandParts hc
  exact ⟨_, hx s, State.command_executing hr hw tag ps.length valid body⟩

/-! ### R13, R168: refused parameters and handles -/

theorem State.handleStatus_of_range {s : State} {h : Handle} (hr : handleInRange h = false) :
    s.handleStatus h = some .badParameter := by simp [State.handleStatus, hr]

theorem handleInRange_eq_false {h : Handle} (hr : 64 ≤ h.index.toNat ∨ 16 ≤ h.generation.toNat) :
    handleInRange h = false := by
  simp only [handleInRange, Bool.and_eq_false_iff, decide_eq_false_iff_not]
  omega

theorem handleEntry_of_index {h : Handle} {i : EntryIndex} (hi : h.index.toNat = i.val) : handleEntry h = i := by
  apply Fin.ext
  simp only [handleEntry, Fin.ofNat, hi]
  omega

/-- The handle checks of a handle within range, at the entry that it names by index (R13). -/
theorem State.handleStatus_of_index {s : State} {h : Handle} {i : EntryIndex} (hi : h.index.toNat = i.val)
    (hg : h.generation.toNat < 16) :
    ((s.entry i).state = .free → s.handleStatus h = some .badHandle) ∧
    ((s.entry i).state = .retiring → s.handleStatus h = some .staleHandle) ∧
    ((s.entry i).state ≠ .free → (s.entry i).generation.toNat ≠ h.generation.toNat →
      s.handleStatus h = some .staleHandle) := by
  have hr : handleInRange h = true := by
    simp only [handleInRange, Bool.and_eq_true, decide_eq_true_eq]
    omega
  unfold State.handleStatus
  rw [hr, handleEntry_of_index hi]
  refine ⟨fun hs => by simp [hs], fun hs => by simp [hs], fun hs hne => ?_⟩
  cases hst : (s.entry i).state <;> simp_all

/-- Settles O20, by the order of the checks in `State.handleStatus`. -/
theorem handleChecksAreMadeInOrder : Obligations.HandleChecksAreMadeInOrder := by
  intro c p tag h s hc ha
  refine ⟨fun hr => ?_, fun i hi hg hwf => ?_⟩
  · exact answers_of_handleStatus hc ha (.inr rfl) (State.handleStatus_of_range (handleInRange_eq_false hr))
  · obtain ⟨hfree, hretiring, hstale⟩ := State.handleStatus_of_index (s := s) hi hg
    exact ⟨fun hs => answers_of_handleStatus hc ha (.inl hwf) (hfree hs),
      fun hs => answers_of_handleStatus hc ha (.inl hwf) (hretiring hs),
      fun hs _ hne => answers_of_handleStatus hc ha (.inl hwf) (hstale hs hne)⟩

/-- Settles O8: a command that names a watch is ill-formed by its handle or by its other parameters, any other by its
parameters. -/
theorem illFormedCommandsAreRefused : Obligations.IllFormedCommandsAreRefused := by
  intro i p tag code ps s hc hwf ha
  obtain ⟨valid, body, hx, hvalid⟩ := exec_of_commandParts hc
  cases hn : namesWatch i with
  | none =>
    obtain rfl : valid = false := (hvalid hn).trans hwf
    exact answers_badParameter (hx s) ha
  | some x =>
    obtain ⟨q, tag', h⟩ := x
    obtain ⟨rfl, rfl⟩ : q = p ∧ tag' = tag := by
      cases i <;> simp_all [namesWatch, commandParts]
    obtain ⟨len, valid', body', hx', hw', -⟩ := exec_of_namesWatch hn
    cases valid' with
    | false => exact answers_badParameter (hx' s) ha
    | true =>
      refine answers_of_handleStatus hn ha (.inr rfl) (State.handleStatus_of_range ?_)
      rw [← hwf, hw', Bool.and_true]

/-! ### R15: the owner -/

/-- Settles O21, by the ownership check that follows the handle checks. -/
theorem nonOwnersAreRefused : Obligations.NonOwnersAreRefused := by
  intro c p tag h s i w hc hwf ha hn ho hreads
  refine answers_of_namesWatch hc ha (.inl hwf) fun v k => ?_
  obtain ⟨hs, hi⟩ := State.handleStatus_of_names (hn.setPort p v)
  have hstatus : ownerStatus p (readsWatch c) w = some .notOwner := by
    unfold ownerStatus
    rw [if_neg ho, if_neg]
    rcases hreads with hr | hr <;> simp [hr]
  simp only [State.withWatch, hs, hi, (hn.setPort p v).watch, hstatus]

/-! ### CREATE WATCH (R17) -/

theorem exec_createWatch (p : Port) (tag : Byte) (block : DefBlock) (s : State) :
    exec (.createWatch p tag block) s =
      .next (s.command p tag 28 (blockCreation block).isSome (createWatchBody p block)) := rfl

theorem State.freeEntry_eq_some {s : State} {i : EntryIndex} (hi : (s.entry i).state = .free)
    (hlow : ∀ j < i, (s.entry j).state ≠ .free) : s.freeEntry = some i :=
  find?_allEntries (by simpa using hi) fun j hj => not_lt.mp fun hlt => hlow j hlt (by simpa using hj)

theorem State.freeEntry_eq_none {s : State} (hf : ∀ i, (s.entry i).state ≠ .free) : s.freeEntry = none :=
  find?_allEntries_none fun i => by simpa using hf i

@[simp] theorem State.freeEntry_setPort (s : State) (p : Port) (v : PortState) : (s.setPort p v).freeEntry = s.freeEntry := by
  simp [State.freeEntry]

/-- Settles O22, by whether an entry is FREE. -/
theorem createWatchTakesTheLowestFreeEntry : Obligations.CreateWatchTakesTheLowestFreeEntry := by
  intro s p tag block c bankA ha hb
  have hx := exec_createWatch p tag block s
  rw [hb] at hx
  refine ⟨fun i hi hlow => answers_ok hx ha fun v => ?_, fun hf => answers_refusal hx ha fun v => ?_⟩
  · have hfree := State.freeEntry_eq_some hi hlow
    have hg : byteOf (s.entry i).generation.toNat = (s.entry i).generation.setWidth 8 := by
      exact BitVec.eq_of_toNat_eq (by simp [byteOf])
    have he : (s.setPort p v).entry i = s.entry i := by simp
    simp only [createWatchBody, hb, State.freeEntry_setPort, hfree, he, hg, State.setEntry_setPort]
    rfl
  · simp [createWatchBody, hb, State.freeEntry_eq_none hf]

end Sys2Proof.Machine
end

section
/-! The commands that change a definition or start a watch: MODIFY WATCH, WRITE BANK, SWAP BANK, ARM and SAMPLE (spec/02). -/

namespace Sys2Proof.Machine

/-! ### A command on the port's own watch -/

section
variable {c : Instr} {p : Port} {tag : Byte} {h : Handle} {len : Nat} {s s' : State} {i : EntryIndex} {w : Watch}
  {k : State → EntryIndex → Watch → State × Reply} {data : List Byte} {status : Status}

theorem State.withWatch_of_owner (hn : s.Names h i w) (ho : w.defn.owner = p) (v : PortState)
    (f : EntryIndex → Watch → State × Reply) : (s.setPort p v).withWatch p h false f = f i w :=
  State.withWatch_of_names (hn.setPort p v) (by simp [ownerStatus, ho]) f

theorem answers_ok_of_commands (hx : exec c s = .next (s.command p tag len true fun s => s.withWatch p h false (k s)))
    (hc : s.Commands p h i w) (hk : ∀ v, k (s.setPort p v) i w = (s'.setPort p v, .ok data)) :
    Answers c s p tag .ok data s' :=
  answers_ok hx hc.accepts fun v => (State.withWatch_of_owner hc.names hc.owner v _).trans (hk v)

theorem answers_refusal_of_commands
    (hx : exec c s = .next (s.command p tag len true fun s => s.withWatch p h false (k s)))
    (hc : s.Commands p h i w) (hk : ∀ v, k (s.setPort p v) i w = (s.setPort p v, .refuse status)) :
    Answers c s p tag status [] s :=
  answers_refusal hx hc.accepts fun v => (State.withWatch_of_owner hc.names hc.owner v _).trans (hk v)

end

@[simp] theorem State.withWatchAt_setPort (s : State) (p : Port) (v : PortState) (i : EntryIndex) (w : Watch) :
    (s.setPort p v).withWatchAt i w = (s.withWatchAt i w).setPort p v := by simp [State.withWatchAt]

theorem State.Names.addressable_cases {s : State} {h : Handle} {i : EntryIndex} {w : Watch} (hn : s.Names h i w) :
    (s.entry i).state = .defined ∨ (s.entry i).state = .armed := by
  simpa [Entry.addressable] using hn.addressable

/-! ### MODIFY WATCH (R23 to R26, R49) -/

theorem exec_modifyWatch {p : Port} {tag : Byte} {h : Handle} {block : DefBlock} {c : Contract}
    (hb : blockContract block = some c) (s : State) : exec (.modifyWatch p tag h block) s =
      .next (s.command p tag 30 true fun s => s.withWatch p h false (modifyWatchAt s c)) := by
  show Host.Outcome.next (s.command p tag 30 (blockContract block).isSome (modifyWatchBody p h block)) = _
  rw [hb]
  refine congrArg (fun body => Host.Outcome.next (s.command p tag 30 true body)) (funext fun u => ?_)
  rw [modifyWatchBody, hb]

theorem Start.sameBut_iff (old new : Start) :
    old.sameBut new = true ↔ new = old ∨ ∃ m n, old = .interval m ∧ new = .interval n := by
  cases old <;> cases new <;> simp [Start.sameBut, eq_comm]

theorem Contract.permitted_iff (old new : Contract) : old.permitted new = true ↔
    new.measure = old.measure ∧ new.share = old.share ∧
      (new.start = old.start ∨ ∃ m n, old.start = .interval m ∧ new.start = .interval n) := by
  simp [Contract.permitted, Start.sameBut_iff, and_assoc]

theorem bankWithin_iff (k : Option Threshold) (limits : Int × Int) :
    bankWithin k limits = true ↔ ∀ t, k = some t → t.within limits = true := by
  cases k <;> simp [bankWithin]

theorem Definition.banksWithin_iff (d : Definition) (limits : Int × Int) :
    (bankWithin d.bankA limits && bankWithin d.bankB limits) = true ↔
      ∀ k t, d.bank k = some t → t.within limits = true := by
  rw [Bool.and_eq_true, bankWithin_iff, bankWithin_iff]
  exact ⟨fun ⟨ha, hb⟩ k => match k with | .a => ha | .b => hb, fun hk => ⟨hk .a, hk .b⟩⟩

theorem Watch.modified_of_clear {w : Watch} (h : w.dyn.heldTrigger = false) (c : Contract) :
    w.modified c =
      { defn := { w.defn with contract := c }
        dyn := { w.dyn with candidate := if c.qualify = w.defn.contract.qualify then w.dyn.candidate else none } } := by
  simp [Watch.modified, h]

section
variable {s : State} {i : EntryIndex} {w : Watch} {c : Contract}

theorem modifyWatchAt_armed (hs : (s.entry i).state = .armed) : modifyWatchAt s c i w =
    if w.defn.contract.permitted c then ((s.withWatchAt i (w.modified c)).retestLateness i (w.modified c), .ok [])
    else (s, .refuse .badState) := by
  simp only [modifyWatchAt, hs, State.withWatchAt]

theorem modifyWatchAt_defined (hs : (s.entry i).state = .defined) : modifyWatchAt s c i w =
    if (s.entry i).activity ≠ .none then (s, .refuse .badState)
    else if bankWithin w.defn.bankA c.measure.kind.limits && bankWithin w.defn.bankB c.measure.kind.limits then
      (s.withWatchAt i (w.modified c), .ok [])
    else (s, .refuse .badParameter) := by
  simp only [modifyWatchAt, hs, State.withWatchAt]

end

/-- Watch `w` of entry `i` is a PAST_DUE member whose interval has run out (R49). -/
def State.RunsLate (s : State) (i : EntryIndex) (w : Watch) : Prop :=
  s.lateness i = some .pastDue ∧ ∃ n d, w.defn.contract.start = .interval n ∧ w.dyn.due = some d ∧
    (s.now - (d + BitVec.ofNat 32 (n * 10))).toNat < 2 ^ 31

theorem Watch.lateTime_eq_some {w : Watch} {t : DeviceTime} : w.lateTime = some t ↔
    ∃ n d, w.defn.contract.start = .interval n ∧ w.dyn.due = some d ∧ t = d + BitVec.ofNat 32 (n * 10) := by
  unfold Watch.lateTime
  split
  · rename_i d n hd hn
    simp [hd, hn, intervalUnits, Config.unitsPerInterval, eq_comm]
  · rename_i hno
    exact ⟨nofun, fun ⟨n, d, hn, hd, _⟩ => (hno d n hd hn).elim⟩

theorem State.retestLateness_of_runsLate {s : State} {i : EntryIndex} {w : Watch} (h : s.RunsLate i w) :
    s.retestLateness i w = s.setLateness i .late := by
  obtain ⟨hl, n, d, hn, hd, hr⟩ := h
  simp only [State.retestLateness, hl, Watch.lateTime_eq_some.mpr ⟨n, d, hn, hd, rfl⟩, reached, hr, decide_true, if_true]

theorem State.retestLateness_of_not_runsLate {s : State} {i : EntryIndex} {w : Watch} (h : ¬ s.RunsLate i w) :
    s.retestLateness i w = s := by
  unfold State.retestLateness
  split
  · rename_i t hl ht
    obtain ⟨n, d, hn, hd, rfl⟩ := Watch.lateTime_eq_some.mp ht
    exact if_neg fun hr => h ⟨hl, n, d, hn, hd, by simpa [reached] using hr⟩
  · rfl

/-- Settles O24, by the entry's state and then by the tests of `modifyWatchAt`. -/
theorem modifyWatchChangesTheDefinition : Obligations.ModifyWatchChangesTheDefinition := by
  intro s p tag h block c i w hc hb
  have hx := exec_modifyWatch (p := p) (tag := tag) (h := h) hb s
  refine ⟨fun hs hheld => ?_, fun hs => ?_⟩
  · have hk := fun v => modifyWatchAt_defined (s := s.setPort p v) (w := w) (c := c) (by simpa using hs)
    have hfits := Definition.banksWithin_iff w.defn c.measure.kind.limits
    simp only [State.setPort_entry, State.withWatchAt_setPort, Watch.modified_of_clear hheld c] at hk
    refine ⟨fun ha => ?_, fun ha hf => ?_, fun ha hf => ?_⟩
    · exact answers_refusal_of_commands hx hc fun v => (hk v).trans (if_pos ha)
    · exact answers_ok_of_commands hx hc fun v => (hk v).trans (by rw [if_neg (by simpa using ha), if_pos (hfits.mpr hf)])
    · exact answers_refusal_of_commands hx hc fun v =>
        (hk v).trans (by rw [if_neg (by simpa using ha), if_neg (mt hfits.mp hf)])
  · have hk := fun v => modifyWatchAt_armed (s := s.setPort p v) (w := w) (c := c) (by simpa using hs)
    simp only [State.withWatchAt_setPort, State.retestLateness_setPort] at hk
    have hperm := Contract.permitted_iff w.defn.contract c
    have hlate : (s.withWatchAt i (w.modified c)).RunsLate i (w.modified c) ↔ s.RunsLate i (w.modified c) := Iff.rfl
    refine ⟨fun hp => ?_, fun hp hl => ?_, fun hp hl => ?_⟩
    · exact answers_refusal_of_commands hx hc fun v => (hk v).trans (if_neg (mt hperm.mp hp))
    · exact answers_ok_of_commands hx hc fun v => (hk v).trans (by
        rw [if_pos (hperm.mpr hp), State.retestLateness_of_not_runsLate (mt hlate.mp hl)]; rfl)
    · exact answers_ok_of_commands hx hc fun v => (hk v).trans (by
        rw [if_pos (hperm.mpr hp), State.retestLateness_of_runsLate (hlate.mpr hl)]; rfl)

/-! ### WRITE BANK and SWAP BANK (R27 to R29) -/

theorem exec_writeBank {p : Port} {tag : Byte} {h : Handle} {bank : BankBlock} {k : Option Threshold}
    (hb : decodeBank bank portLimits = some k) (s : State) : exec (.writeBank p tag h bank) s =
      .next (s.command p tag 15 true fun s => s.withWatch p h false (writeBankAt s k)) := by
  show Host.Outcome.next (s.command p tag 15 (decodeBank bank portLimits).isSome (writeBankBody p h bank)) = _
  rw [hb]
  refine congrArg (fun body => Host.Outcome.next (s.command p tag 15 true body)) (funext fun u => ?_)
  rw [writeBankBody, hb]

theorem exec_swapBank (p : Port) (tag : Byte) (h : Handle) (s : State) : exec (.swapBank p tag h) s =
    .next (s.command p tag 2 true fun s => s.withWatch p h false (swapBankAt s)) := rfl

theorem writeBankAt_of_watch {s : State} {i : EntryIndex} {w : Watch} (hw : (s.entry i).watch = some w) (k : Option Threshold) :
    writeBankAt s k i w = if w.dyn.swapPending then (s, .refuse .badState)
      else if bankWithin k w.defn.contract.measure.kind.limits then
        (s.withWatchAt i { w with defn := w.defn.setBank w.defn.active.other k }, .ok [])
      else (s, .refuse .badParameter) := by
  rw [writeBankAt, State.updateWatch_of_watch hw]

/-- Settles O25, by the tests of `writeBankAt` and the active bank. -/
theorem writeBankWritesTheInactiveBank : Obligations.WriteBankWritesTheInactiveBank := by
  intro s p tag h bank k i w hc hb
  have hx := exec_writeBank (p := p) (tag := tag) (h := h) (show decodeBank bank portLimits = some k from hb) s
  have hk := fun v => writeBankAt_of_watch (s := s.setPort p v) (w := w) (by simpa using hc.names.watch) k
  simp only [State.withWatchAt_setPort] at hk
  have hfits := bankWithin_iff k w.defn.contract.measure.kind.limits
  refine ⟨fun hp => ?_, fun hp hf => ?_, fun hp hf ha => ?_, fun hp hf ha => ?_⟩
  · exact answers_refusal_of_commands hx hc fun v => (hk v).trans (if_pos hp)
  · exact answers_refusal_of_commands hx hc fun v =>
      (hk v).trans (by rw [if_neg (by simp [hp]), if_neg (mt hfits.mp hf)])
  all_goals
    refine answers_ok_of_commands hx hc fun v => (hk v).trans ?_
    rw [if_neg (by simp [hp]), if_pos (hfits.mpr hf), ha]
    rfl

theorem Definition.inactiveBank_eq (d : Definition) :
    d.inactiveBank = if d.active = .a then d.bankB else d.bankA := by
  unfold Definition.inactiveBank
  cases d.active <;> rfl

theorem BankId.other_eq (k : BankId) : k.other = if k = .a then .b else .a := by cases k <;> rfl

theorem swapBankAt_of_watch {s : State} {i : EntryIndex} {w : Watch} (hw : (s.entry i).watch = some w) :
    swapBankAt s i w = if w.defn.inactiveBank = none ∨ w.dyn.swapPending = true then (s, .refuse .badState)
      else if (s.entry i).state = .armed then
        (s.withWatchAt i { w with dyn := { w.dyn with swapPending := true } }, .ok [])
      else (s.withWatchAt i w.toggleBanks, .ok []) := by
  rw [swapBankAt, State.updateWatch_of_watch hw, State.updateWatch_of_watch hw]
  cases (s.entry i).state <;> rfl

theorem Watch.toggleBanks_of_settled {w : Watch} (h : w.dyn.swapPending = false) : w.toggleBanks =
    { defn := { w.defn with active := if w.defn.active = .a then .b else .a }, dyn := { w.dyn with candidate := none } } := by
  rw [Watch.toggleBanks, BankId.other_eq, ← h]

/-- Settles O26, by the tests of `swapBankAt` and the entry's state. -/
theorem swapBankTogglesOrPends : Obligations.SwapBankTogglesOrPends := by
  intro s p tag h i w hc
  have hx := exec_swapBank p tag h s
  have hk := fun v => swapBankAt_of_watch (s := s.setPort p v) (w := w) (by simpa using hc.names.watch)
  simp only [State.setPort_entry, State.withWatchAt_setPort, Definition.inactiveBank_eq] at hk
  refine ⟨fun hr => ?_, fun hb hp => ⟨fun hs => ?_, fun hs => ?_⟩⟩
  · exact answers_refusal_of_commands hx hc fun v => (hk v).trans (if_pos hr)
  all_goals
    refine answers_ok_of_commands hx hc fun v => (hk v).trans ?_
    rw [if_neg (by simpa [hp] using hb)]
  · rw [if_neg (by simp [hs]), Watch.toggleBanks_of_settled hp]
  · rw [if_pos hs]

/-! ### ARM (R31, R32, R48, R50) -/

theorem exec_arm (p : Port) (tag : Byte) (h : Handle) (delay : Half) (s : State) : exec (.arm p tag h delay) s =
    .next (s.command p tag 4 true fun s => s.withWatch p h false (armAt s delay)) := rfl

/-- The entry as ARM leaves it, its due time apart (R32). -/
def State.setArmed (s : State) (i : EntryIndex) (w : Watch) : State :=
  s.setEntry i { s.entry i with state := .armed, watch := some w.armed }

section
variable {s : State} {i : EntryIndex} {w : Watch} {delay : Half}

theorem State.armWatch_of_other (hn : ∀ n, w.defn.contract.start ≠ .interval n) : s.armWatch i w delay = s.setArmed i w := by
  unfold State.armWatch
  split
  · rename_i n hs
    exact absurd hs (hn n)
  · rfl

/-- An ARMED INTERVAL watch has joined the due list, one first delay from now. -/
theorem State.armWatch_of_interval {n : Nat} (hn : w.defn.contract.start = .interval n) :
    s.armWatch i w delay =
      let t := (s.setArmed i w).joinDueList i (s.now + BitVec.ofNat 32 (delay.toNat * 10))
      if delay = 0 ∧ s.isHeld = false then t.expire i .onTime else t := by
  simp only [State.armWatch, hn, State.isHeld_joinDueList]
  rfl

theorem armAt_refused (h : (s.entry i).state ≠ .defined ∨ (s.entry i).activity ≠ .none) :
    armAt s delay i w = (s, .refuse .badState) := if_pos h

theorem armAt_accepted (hs : (s.entry i).state = .defined) (ha : (s.entry i).activity = .none)
    (hd : delay = 0 ∨ ∃ n, w.defn.contract.start = .interval n) : armAt s delay i w = (s.armWatch i w delay, .ok []) := by
  rw [armAt, if_neg (by simp [hs, ha])]
  rcases hd with hd | ⟨n, hn⟩
  · cases w.defn.contract.start <;> simp [hd]
  · simp [hn]

theorem armAt_delayed (hs : (s.entry i).state = .defined) (ha : (s.entry i).activity = .none) (hd : delay ≠ 0)
    (hn : ∀ n, w.defn.contract.start ≠ .interval n) : armAt s delay i w = (s, .refuse .badParameter) := by
  rw [armAt, if_neg (by simp [hs, ha])]
  split
  · rename_i n hst
    exact absurd hst (hn n)
  · rw [if_neg hd]

end

/-- Settles O27, by what ARM refuses and whether the watch starts by INTERVAL. -/
theorem armSchedulesTheWatch : Obligations.ArmSchedulesTheWatch := by
  intro s p tag h delay i w hc
  have hx := exec_arm p tag h delay s
  refine ⟨fun hr => ?_, fun hs ha => ⟨fun hn => ⟨fun hd => ?_, fun hd => ?_⟩, fun n hn => ?_⟩⟩
  · exact answers_refusal_of_commands hx hc fun v => armAt_refused (by simpa using hr)
  · exact answers_refusal_of_commands hx hc fun v => armAt_delayed (by simpa using hs) (by simpa using ha) hd hn
  · refine answers_ok_of_commands hx hc fun v => (armAt_accepted (by simpa using hs) (by simpa using ha) (.inl hd)).trans ?_
    rw [State.armWatch_setPort, State.armWatch_of_other hn]
    rfl
  · have hwatch : ((s.setArmed i w).entry i).watch = some w.armed := by simp [State.setArmed]
    have hanswer : Answers (.arm p tag h delay) s p tag .ok [] (s.armWatch i w delay) :=
      answers_ok_of_commands hx hc fun v =>
        (armAt_accepted (by simpa using hs) (by simpa using ha) (.inr ⟨n, hn⟩)).trans (by rw [State.armWatch_setPort])
    rw [State.armWatch_of_interval hn] at hanswer
    refine ⟨_, State.joinDueList_spec hwatch _, fun hd => ?_, fun hd hheld =>
      ⟨_, State.expire_spec ?_ (State.joinDueList_watch hwatch _) hn rfl .onTime, ?_⟩⟩
    · rwa [if_neg (by rintro ⟨h1, h2⟩; simp [h1, h2] at hd)] at hanswer
    · simp [State.setArmed]
    · rwa [if_pos ⟨hd, hheld⟩] at hanswer

/-! ### SAMPLE (R42) -/

theorem exec_sample (p : Port) (tag : Byte) (h : Handle) (s : State) : exec (.sample p tag h) s =
    .next (s.command p tag 2 true fun s => s.withWatch p h false (sampleAt s)) := rfl

/-- Settles O30, by the tests of `sampleAt`; the start is `State.startRequest`. -/
theorem sampleStartsTheWatch : Obligations.SampleStartsTheWatch := by
  intro s p tag h i w hc
  have hx := exec_sample p tag h s
  refine ⟨fun hs => ?_, fun hs hh => ?_, fun hs hh => ⟨_, _, State.startRequest_spec hc.names.watch, ?_⟩⟩
  · exact answers_refusal_of_commands hx hc fun v => if_pos (by simpa using hs)
  · exact answers_refusal_of_commands hx hc fun v => by simp [sampleAt, hs, hh]
  · have hk : ∀ v, sampleAt (s.setPort p v) i w =
        ((s.startRequest i w).1.setPort p v, .ok [(s.startRequest i w).2.byte]) := fun v => by
      simp [sampleAt, hs, hh, State.startRequest_setPort]
    refine answers_ok_of_commands hx hc fun v => (hk v).trans ?_
    cases (s.startRequest i w).2 <;> rfl

end Sys2Proof.Machine
end

section
/-! DISARM and RETIRE (R33 to R40): how they let go of a watch's work, and the delivery that comes before them (R132, log 12). -/

namespace Sys2Proof.Machine

/-! ### The delivery of a completion already taken leaves the command its watch -/

theorem State.updateWatch_generation (s : State) (i k : EntryIndex) (f : Watch → Watch) :
    ((s.updateWatch i f).entry k).generation = (s.entry k).generation := by
  rw [State.updateWatch_entry]
  split
  · rename_i h
    rw [h]
  · rfl

/-- A start leaves every generation. -/
theorem generationStarts : StartsKept fun (j : EntryIndex × BitVec 4) s => (s.entry j.1).generation = j.2 where
  clearHeld i j s h := (State.updateWatch_generation s i j.1 _).trans h
  holdTrigger {_ s i _} h _ _ := (State.updateWatch_generation s i _ _).trans h
  countOverrun {_ s i _} h _ := by
    rw [State.countOverrun, State.raise_entry]
    exact (State.updateWatch_generation s i _ _).trans h
  submit h _ _ _ := (State.generation_of_register (State.register_submit _ _ _ _ _) _).trans h
  requestEngine h _ _ _ := (State.generation_of_register (State.register_requestEngine _ _ _ _) _).trans h

theorem State.setEntry_generation (s : State) {i : EntryIndex} {e : Entry} (h : e.generation = (s.entry i).generation)
    (k : EntryIndex) : ((s.setEntry i e).entry k).generation = (s.entry k).generation := by
  rw [State.entry_setEntry]
  split
  · rename_i hik
    rw [h, hik]
  · rfl

/-- A delivery advances no generation: that is RETIRE's and a reset's to do (R20, R37). -/
theorem State.deliver_generation (s : State) (i k : EntryIndex) (o : Delivered) :
    ((s.deliver i o).entry k).generation = (s.entry k).generation := by
  unfold State.deliver
  dsimp only
  split
  · exact State.setEntry_generation s (by rfl) k
  · exact State.setEntry_generation s (by rfl) k
  · rename_i w hs hw
    refine generationStarts.completeHeld i (k, _) _ ?_
    have h1 : ((s.setEntry i { s.entry i with activity := .none, watch := some (w.deliver o s.now).1 }).raise i
        (w.deliver o s.now).2 |>.entry k).generation = (s.entry k).generation := by
      rw [State.raise_entry]
      exact State.setEntry_generation s (by rfl) k
    dsimp only
    split
    · refine (State.setEntry_generation _ (by rfl) k).trans ?_
      exact (State.updateWatch_generation _ i k _).trans ((State.updateWatch_generation _ i k _).trans h1)
    · exact h1
  · rfl

theorem State.settleCompletion_generation (s : State) (i k : EntryIndex) :
    ((s.settleCompletion i).entry k).generation = (s.entry k).generation := by
  unfold State.settleCompletion State.deliverFromEngine
  split
  · rfl
  · dsimp only
    split
    · exact (State.generation_of_register (State.register_releaseEngine _ _) k).trans (State.deliver_generation _ _ _ _)
    · rfl

theorem State.settleCompletion_of_none {s : State} {i : EntryIndex} (h : s.reservedFor i = none) :
    s.settleCompletion i = s := by simp only [State.settleCompletion, h]

theorem State.settleCompletion_of_some {s : State} {i : EntryIndex} {e : EngineIndex} (h : s.reservedFor i = some e) :
    s.settleCompletion i = s.takeDelivery (.engine e) := by simp only [State.settleCompletion, h, State.takeDelivery]

theorem State.owns_of_commands {s : State} {p : Port} {h : Handle} {i : EntryIndex} {w : Watch} (hc : s.Commands p h i w) :
    s.owns p i = true := (State.owns_iff s p i).mpr ⟨w, hc.names.watch, hc.owner, hc.names.addressable_cases⟩

/-- A state that differs from `s` in what is no surrounding takes the same commands. -/
theorem State.accepts_of_surroundings {s t : State} (h : t.surroundings = s.surroundings) (p : Port) :
    t.accepts p = s.accepts p := by
  have hr : t.resetAsserted = s.resetAsserted := (congrArg State.resetAsserted h :)
  rw [State.accepts, State.accepts, hr, State.port_eq_of_surroundings h]

/-- After the delivery of its completion the handle still names the watch, which is still the port's. -/
theorem State.Commands.settleCompletion {s : State} {p : Port} {h : Handle} {i : EntryIndex} {w : Watch}
    (hc : s.Commands p h i w) : ∃ w', (s.settleCompletion i).Commands p h i w' := by
  obtain ⟨w', hw', ho, hs⟩ := (State.owns_iff _ _ i).mp (State.settleCompletion_owns (i := i) (State.owns_of_commands hc))
  refine ⟨w', ?_, ⟨hc.names.index, ?_, ?_, hw'⟩, ho⟩
  · exact (State.accepts_of_surroundings (State.surroundings_settleCompletion s i) p).trans hc.accepts
  · rw [State.settleCompletion_generation]
    exact hc.names.generation
  · simpa [Entry.addressable] using hs

/-- Two states with the same port are taken to the same next state by a command whose block does the same on both. -/
theorem State.command_congr {s t : State} {p : Port} {tag : Byte} {len : Nat} {body : State → State × Reply}
    (h : t.surroundings = s.surroundings) (ha : s.accepts p = true)
    (hb : ∀ v, body (s.setPort p v) = body (t.setPort p v)) :
    s.command p tag len true body = t.command p tag len true body := by
  have hp := State.port_eq_of_surroundings h p
  have hr : t.resetAsserted = s.resetAsserted := (congrArg State.resetAsserted h :)
  simp only [State.accepts, Bool.and_eq_true, Bool.not_eq_true'] at ha
  have hx := (s.port p).windowAtEnd_isExecuting
  rw [ha.2] at hx
  simp only [State.command, hr, ha.1, Bool.false_eq_true, if_false, if_true, State.endTransaction, State.drive,
    State.setWindow, State.port_setPort, State.setPort_setPort, hp, hb]
  cases hw : (s.port p).windowAtEnd <;> simp [hw, CommandWindow.isExecuting] at hx ⊢

/-- A command on the watch of entry `i` whose block does the same once the completion at its engine has been delivered. -/
theorem exec_settleCompletion {c : Instr} {p : Port} {tag : Byte} {h : Handle} {s : State} {i : EntryIndex} {w : Watch}
    {k : State → EntryIndex → Watch → State × Reply}
    (hx : ∀ s, exec c s = .next (s.command p tag 2 true fun s => s.withWatch p h false (k s)))
    (hc : s.Commands p h i w)
    (hk : ∀ w' v, w'.defn.owner = w.defn.owner → k (s.setPort p v) i w = k ((s.settleCompletion i).setPort p v) i w') :
    exec c s = exec c (s.settleCompletion i) := by
  obtain ⟨w', hc'⟩ := hc.settleCompletion
  rw [hx, hx, State.command_congr (State.surroundings_settleCompletion s i) hc.accepts fun v => ?_]
  rw [State.withWatch_of_owner hc.names hc.owner, State.withWatch_of_owner hc'.names hc'.owner]
  exact hk w' v (hc'.owner.trans hc.owner.symm)

theorem exec_delivery_engine {s t : State} {i : EntryIndex} {e : EngineIndex} (hr : s.resetAsserted = false)
    (he : s.reservedFor i = some e) (ht : exec (.delivery (.engine e)) s = .next t) : t = s.settleCompletion i := by
  have hx : exec (.delivery (.engine e)) s = .next (if s.resetAsserted then s else s.takeDelivery (.engine e)) := rfl
  rw [hx, hr] at ht
  rw [State.settleCompletion_of_some he]
  exact (Host.Outcome.next.inj ht).symm

theorem State.resetAsserted_of_accepts {s : State} {p : Port} (h : s.accepts p = true) : s.resetAsserted = false := by
  simp only [State.accepts, Bool.and_eq_true, Bool.not_eq_true'] at h
  exact h.1

/-! ### DISARM (R33 to R36) -/

theorem exec_disarm (p : Port) (tag : Byte) (h : Handle) (s : State) : exec (.disarm p tag h) s =
    .next (s.command p tag 2 true fun s => s.withWatch p h false (disarmAt s)) := rfl

/-- A watch that DISARM has taken off the due list and out of waiting, with a pending swap taken. -/
def Watch.disarmed (w : Watch) : Watch where
  defn := if w.dyn.swapPending = true then { w.defn with active := if w.defn.active = .a then .b else .a } else w.defn
  dyn := { w.dyn with
    due := none, heldTrigger := false, swapPending := false
    candidate := if w.dyn.swapPending = true then none else w.dyn.candidate }

/-- `s` with watch `w` at entry `i` and that entry off the due list. -/
def State.unscheduled (s : State) (i : EntryIndex) (w : Watch) : State :=
  { s.withWatchAt i w with dueList := s.dueList.filter fun m => decide (m.entry ≠ i) }

@[simp] theorem State.unscheduled_entry (s : State) (i j : EntryIndex) (w : Watch) :
    (s.unscheduled i w).entry j = if i = j then { s.entry i with watch := some w } else s.entry j :=
  State.withWatchAt_entry s i j w

theorem State.unscheduled_updateWatch (s : State) (i : EntryIndex) (w : Watch) (f : Watch → Watch) :
    (s.unscheduled i w).updateWatch i f = s.unscheduled i (f w) := by
  rw [State.updateWatch_of_watch (w := w) (by simp)]
  simp [State.unscheduled, State.withWatchAt, State.setEntry, State.entry]

theorem State.leaveDueList_eq_unscheduled {s : State} {i : EntryIndex} {w : Watch} (h : (s.entry i).watch = some w) :
    s.leaveDueList i = s.unscheduled i { w with dyn := { w.dyn with due := none } } := State.leaveDueList_of_watch h

theorem State.disarmWatch_of_watch {s : State} {i : EntryIndex} {w : Watch} (h : (s.entry i).watch = some w) :
    s.disarmWatch i =
      let u := (s.unscheduled i w.disarmed).letGo i
      u.setEntry i { u.entry i with state := .defined } := by
  have hw : (if w.dyn.swapPending = true then
        ({ w with dyn := { w.dyn with due := none, heldTrigger := false } } : Watch).toggleBanks
      else { w with dyn := { w.dyn with due := none, heldTrigger := false } }) = w.disarmed := by
    unfold Watch.disarmed Watch.toggleBanks
    rw [BankId.other_eq]
    cases hs : w.dyn.swapPending <;> simp [hs]
  rw [State.disarmWatch, State.leaveDueList_eq_unscheduled h, State.clearHeld, State.unscheduled_updateWatch,
    State.unscheduled_updateWatch, hw]

section
variable {s : State} {i : EntryIndex} {w : Watch}

theorem disarmAt_refused (hs : (s.entry i).state ≠ .armed) : disarmAt s i w = (s, .refuse .badState) := if_pos hs

theorem disarmAt_armed (hs : (s.entry i).state = .armed) (hr : s.reservedFor i = none) :
    disarmAt s i w = (s.disarmWatch i, .ok []) := by
  rw [disarmAt, if_neg (by simp [hs]), State.settleCompletion_of_none hr]
  exact if_neg (by simp [hs])

/-- DISARM of an ARMED watch does what it does once the completion at its engine has been delivered. -/
theorem disarmAt_settleCompletion (hs : (s.entry i).state = .armed) (hr : (s.settleCompletion i).reservedFor i = none)
    (w' : Watch) : disarmAt s i w = disarmAt (s.settleCompletion i) i w' := by
  have hd : disarmAt s i w = if ((s.settleCompletion i).entry i).state ≠ .armed then
      (s.settleCompletion i, .refuse .badState) else ((s.settleCompletion i).disarmWatch i, .ok []) :=
    if_neg (by simp [hs])
  rw [hd]
  split
  · rename_i hs'
    exact (disarmAt_refused hs').symm
  · rename_i hs'
    exact (disarmAt_armed (not_not.mp hs') hr).symm

end

/-- A ONCE delivery ends the watch's arming (R150). -/
theorem State.settleCompletion_once {s : State} {i : EntryIndex} {w : Watch} {e : EngineIndex} (hw : (s.entry i).watch = some w)
    (hs : (s.entry i).state = .armed) (hl : w.defn.contract.lifetime = .once) (he : s.reservedFor i = some e)
    (hr : (s.settleCompletion i).reservedFor i = none) : ((s.settleCompletion i).entry i).state ≠ .armed := by
  have hfound := List.find?_some he
  simp only [Bool.and_eq_true, decide_eq_true_eq] at hfound
  obtain ⟨hholder, hreserved⟩ := hfound
  have hsettle : s.settleCompletion i = s.deliverFromEngine e := State.settleCompletion_of_some he
  cases ho : (s.engine e).outcome with
  | none =>
    have hstays : s.settleCompletion i = s := by simp only [hsettle, State.deliverFromEngine, hreserved, hholder, ho]
    rw [hstays, he] at hr
    cases hr
  | some o =>
    have hdelivered : s.settleCompletion i = (s.deliver i o).releaseEngine e := by
      simp only [hsettle, State.deliverFromEngine, hreserved, hholder, ho]
    obtain ⟨-, -, htaken⟩ := State.deliver_spec hw o
    obtain ⟨honce, -, -⟩ := htaken hs
    rw [hdelivered, State.state_of_register (State.register_releaseEngine _ _), honce hl]
    show ((State.setEntry _ i _).entry i).state ≠ .armed
    simp

/-- Settles O28: without a completion on its way, by the entry's state; with one, by taking it first. -/
theorem disarmEndsScheduling : Obligations.DisarmEndsScheduling := by
  intro s p tag h i w hc
  have hx := exec_disarm p tag h
  refine ⟨fun hr => ⟨fun hs => ?_, fun hs => ?_⟩, fun e t he hs ht hr => ?_⟩
  · exact answers_refusal_of_commands (hx s) hc fun v => disarmAt_refused (by simpa using hs)
  · refine ⟨_, State.letGo_spec (s.unscheduled i w.disarmed) i, answers_ok_of_commands (hx s) hc fun v => ?_⟩
    rw [disarmAt_armed (by simpa using hs) (by simpa using hr), State.disarmWatch_setPort,
      State.disarmWatch_of_watch hc.names.watch]
  · obtain rfl := exec_delivery_engine (State.resetAsserted_of_accepts hc.accepts) he ht
    have heq : exec (.disarm p tag h) s = exec (.disarm p tag h) (s.settleCompletion i) :=
      exec_settleCompletion hx hc fun w' v _ => by
        rw [disarmAt_settleCompletion (w' := w') (by simpa using hs) (by simpa using hr), State.settleCompletion_setPort]
    refine ⟨heq, fun hl => ?_⟩
    obtain ⟨w', hc'⟩ := hc.settleCompletion
    have hended := State.settleCompletion_once hc.names.watch hs hl he hr
    have hanswer : Answers (.disarm p tag h) (s.settleCompletion i) p tag .badState [] (s.settleCompletion i) :=
      answers_refusal_of_commands (hx _) hc' fun v => disarmAt_refused (by simpa using hended)
    rw [Answers, heq]
    exact hanswer

/-! ### RETIRE (R37 to R40) -/

theorem exec_retire (p : Port) (tag : Byte) (h : Handle) (s : State) : exec (.retire p tag h) s =
    .next (s.command p tag 2 true fun s => s.withWatch p h false (retireAt s)) := rfl

def Watch.retired (w : Watch) : Watch := { w with dyn := { w.dyn with due := none, heldTrigger := false, swapPending := false } }

/-- `s` before the work of a retired watch of port `p` is let go: off the due list and out of the attention set. -/
def State.unlisted (s : State) (p : Port) (i : EntryIndex) (w : Watch) : State :=
  { (s.withWatchAt i w).setAttention p { s.attention p with causes := (s.attention p).causes.set i 0 } with
    dueList := s.dueList.filter fun m => decide (m.entry ≠ i) }

theorem State.removeMember_unscheduled (s : State) (p : Port) (i : EntryIndex) (w : Watch) :
    (s.unscheduled i w).removeMember p i = s.unlisted p i w := by cases p <;> rfl

@[simp] theorem State.unlisted_entry (s : State) (p : Port) (i j : EntryIndex) (w : Watch) :
    (s.unlisted p i w).entry j = if i = j then { s.entry i with watch := some w } else s.entry j := by
  rw [← State.removeMember_unscheduled]
  simp [State.removeMember]

theorem State.unlisted_updateWatch (s : State) (p : Port) (i : EntryIndex) (w : Watch) (f : Watch → Watch) :
    (s.unlisted p i w).updateWatch i f = s.unlisted p i (f w) := by
  rw [State.updateWatch_of_watch (w := w) (by simp)]
  cases p <;> simp [State.unlisted, State.setAttention, State.withWatchAt, State.setEntry, State.entry]

theorem State.retireWatch_of_watch {s : State} {p : Port} {i : EntryIndex} {w : Watch} (h : (s.entry i).watch = some w) :
    s.retireWatch p i =
      if (s.entry i).activity = .converting then
        (s.unlisted p i w.retired).setEntry i ⟨.retiring, (s.entry i).generation + 1, .converting, some w.retired⟩
      else ((s.unlisted p i w.retired).letGo i).setEntry i ⟨.free, (s.entry i).generation + 1, .none, none⟩ := by
  have h1 : (((s.leaveDueList i).removeMember p i).clearHeld i).updateWatch i
      (fun w => { w with dyn := { w.dyn with swapPending := false } }) = s.unlisted p i w.retired := by
    rw [State.leaveDueList_eq_unscheduled h, State.removeMember_unscheduled, State.clearHeld, State.unlisted_updateWatch,
      State.unlisted_updateWatch]
    rfl
  have he : (s.unlisted p i w.retired).entry i = { s.entry i with watch := some w.retired } := by simp
  simp only [State.retireWatch, h1, he]
  split
  · rename_i ha
    simp only [ha]
  · rfl

/-- Settles O29: without a completion on its way, by whether the watch is CONVERTING; with one, by taking it first. -/
theorem retireFreesTheEntry : Obligations.RetireFreesTheEntry := by
  intro s p tag h i w hc
  have hx := exec_retire p tag h
  refine ⟨fun hr => ?_, fun e t he ht hr => ?_⟩
  · have hanswer : Answers (.retire p tag h) s p tag .ok [] (s.retireWatch p i) :=
      answers_ok_of_commands (hx s) hc fun v => by
        rw [retireAt, State.settleCompletion_of_none (by simpa using hr), hc.owner, State.retireWatch_setPort]
    rw [State.retireWatch_of_watch hc.names.watch] at hanswer
    refine ⟨fun ha => ?_, fun ha => ⟨_, State.letGo_spec (s.unlisted p i w.retired) i, ?_⟩⟩
    · rwa [if_pos ha] at hanswer
    · rwa [if_neg ha] at hanswer
  · obtain rfl := exec_delivery_engine (State.resetAsserted_of_accepts hc.accepts) he ht
    refine exec_settleCompletion hx hc fun w' v ho => ?_
    rw [retireAt, retireAt, ho, State.settleCompletion_setPort, State.settleCompletion_of_none (s := State.setPort _ _ _)
      (by simpa using hr)]

end Sys2Proof.Machine
end

section
/-! The conversion arithmetic (R85, R106 to R108) and SET FILTER (R117). -/

namespace Sys2Proof.Machine

/-! ### Raw codes (R85) -/

theorem codeStep_eq (range : Fin 4) : codeStep range = if range = 0 then 500 else if range = 3 then 2000 else 1000 := by
  fin_cases range <;> rfl

theorem codeStep_pos (range : Fin 4) : 0 < codeStep range := by
  rw [codeStep_eq]
  split
  · omega
  · split <;> omega

/-- The raw code at level 0. -/
def zeroCode (range : Fin 4) : Int := if range.val < 2 then 0 else 2048

theorem rawCode_cast (range : Fin 4) (level : Int) :
    (rawCode range level : Int) = max 0 (min 4095 (zeroCode range + level / codeStep range)) := by
  have hz : (if bipolar range then (2048 : Int) else 0) = zeroCode range := by
    unfold zeroCode bipolar
    by_cases h : range.val < 2
    · simp [h]
    · simp [h, Nat.le_of_not_lt h]
  rw [rawCode, hz]
  exact Int.toNat_of_nonneg (le_max_left _ _)

/-- Within the span the code is the step the level lies in; beyond it, a clamp code. -/
theorem rawCode_steps (range : Fin 4) (level : Int) :
    let zero := zeroCode range
    let step := codeStep range
    rawCode range level ≤ 4095 ∧
    (-zero * step ≤ level → level < (4096 - zero) * step →
      ((rawCode range level : Int) - zero) * step ≤ level ∧ level < ((rawCode range level : Int) - zero + 1) * step) ∧
    (level < -zero * step → rawCode range level = 0) ∧
    ((4096 - zero) * step ≤ level → rawCode range level = 4095) := by
  have hstep := codeStep_pos range
  have hcast := rawCode_cast range level
  have hfloor : level / codeStep range * codeStep range ≤ level := Int.ediv_mul_le _ hstep.ne'
  have hceil : level < (level / codeStep range + 1) * codeStep range := Int.lt_ediv_add_one_mul_self _ hstep
  refine ⟨by omega, fun hlow hhigh => ?_, fun hlow => ?_, fun hhigh => ?_⟩
  · have hq : (rawCode range level : Int) - zeroCode range = level / codeStep range := by
      have h1 := (Int.le_ediv_iff_mul_le hstep).mpr hlow
      have h2 := (Int.ediv_lt_iff_lt_mul hstep).mpr hhigh
      omega
    rw [hq]
    exact ⟨hfloor, hceil⟩
  · have h1 := (Int.ediv_lt_iff_lt_mul hstep).mpr hlow
    omega
  · have h1 := (Int.le_ediv_iff_mul_le hstep).mpr hhigh
    omega

/-! ### Correction (R106 to R108) -/

theorem signedCode_eq (range : Fin 4) (raw : Nat) :
    signedCode range raw = if range.val < 2 then (raw : Int) else raw - 2048 := by
  unfold signedCode bipolar
  by_cases h : range.val < 2
  · simp [h]
  · simp [h, Nat.le_of_not_lt h]

theorem correctedLimits_eq (range : Fin 4) : correctedLimits range =
    (if range.val < 2 then 0 else -2048, if range.val < 2 then 4095 else 2047) := by
  unfold correctedLimits bipolar
  by_cases h : range.val < 2
  · simp [h]
  · simp [h, Nat.le_of_not_lt h]

theorem signedCode_bounds (range : Fin 4) {raw : Nat} (h : raw ≤ 4095) :
    (correctedLimits range).1 ≤ signedCode range raw ∧ signedCode range raw ≤ (correctedLimits range).2 := by
  rw [signedCode_eq, correctedLimits_eq]
  dsimp only
  split <;> omega

/-- A quotient with the fraction discarded toward zero. -/
theorem tdiv_bounds (x : Int) :
    (0 ≤ x → 32768 * x.tdiv 32768 ≤ x ∧ x < 32768 * (x.tdiv 32768 + 1)) ∧
    (x < 0 → 32768 * (x.tdiv 32768 - 1) < x ∧ x ≤ 32768 * x.tdiv 32768) := by
  constructor
  · intro hx
    rw [Int.tdiv_eq_ediv_of_nonneg hx]
    omega
  · intro hx
    have hneg : x.tdiv 32768 = -((-x) / 32768) := by
      rw [← Int.tdiv_eq_ediv_of_nonneg (by omega), Int.neg_tdiv, neg_neg]
    rw [hneg]
    omega

theorem product_bounds {sum : Int} {gain : Nat} (h1 : -4096 ≤ sum) (h2 : sum ≤ 6142) (hg : gain ≤ 65535) :
    -268431360 ≤ sum * gain ∧ sum * gain ≤ 402515970 := by
  have hg' : (gain : Int) ≤ 65535 := by omega
  have hlow : -4096 * (gain : Int) ≤ sum * gain := Int.mul_le_mul_of_nonneg_right h1 (by omega)
  have hhigh : sum * (gain : Int) ≤ 6142 * gain := Int.mul_le_mul_of_nonneg_right h2 (by omega)
  omega

/-- Holding a value within limits. -/
theorem clampInt_cases {lo hi x : Int} (h : lo ≤ hi) :
    (x < lo → clampInt lo hi x = lo) ∧ (hi < x → clampInt lo hi x = hi) ∧ (lo ≤ x → x ≤ hi → clampInt lo hi x = x) ∧
      (clampInt lo hi x ≠ x ↔ x < lo ∨ hi < x) := by
  unfold clampInt
  omega

/-- The identity entry passes every code. -/
theorem correctionQuotient_identity (range : Fin 4) (raw : Nat) :
    correctionQuotient ⟨32768, 0⟩ range raw = signedCode range raw := by
  rw [correctionQuotient, add_zero]
  exact Int.mul_tdiv_cancel _ (by decide)

/-- The corrected value is the quotient held within the limits of the range. -/
theorem correctedValue_cases (k : Correction) (range : Fin 4) (raw : Nat) :
    let q := correctionQuotient k range raw
    let limits := correctedLimits range
    (q < limits.1 → correctedValue k range raw = limits.1) ∧ (limits.2 < q → correctedValue k range raw = limits.2) ∧
      (limits.1 ≤ q → q ≤ limits.2 → correctedValue k range raw = q) ∧
      (saturated k range raw = true ↔ q < limits.1 ∨ limits.2 < q) := by
  have hlimits : (correctedLimits range).1 ≤ (correctedLimits range).2 := by
    rw [correctedLimits_eq]
    dsimp only
    split <;> omega
  obtain ⟨hbelow, habove, hwithin, hheld⟩ := clampInt_cases (x := correctionQuotient k range raw) hlimits
  exact ⟨hbelow, habove, hwithin, decide_eq_true_iff.trans hheld⟩

theorem correctedValue_identity (range : Fin 4) {raw : Nat} (h : raw ≤ 4095) :
    correctedValue ⟨32768, 0⟩ range raw = signedCode range raw ∧ saturated ⟨32768, 0⟩ range raw = false := by
  obtain ⟨-, -, hwithin, hsat⟩ := correctedValue_cases ⟨32768, 0⟩ range raw
  obtain ⟨hlow, hhigh⟩ := signedCode_bounds range h
  rw [correctionQuotient_identity] at hwithin hsat
  refine ⟨hwithin hlow hhigh, Bool.eq_false_iff.mpr fun hs => ?_⟩
  rcases hsat.mp hs with h | h <;> omega

/-- Settles O35, from `rawCode_steps`, `tdiv_bounds` and `correctedValue_cases`. -/
theorem conversionArithmeticIsExact : Obligations.ConversionArithmeticIsExact := by
  refine ⟨fun range level => ?_, fun k range raw hg ho1 ho2 hraw => ?_⟩
  · have h := rawCode_steps range level
    rw [codeStep_eq] at h
    exact h
  · have hcode := signedCode_eq range raw
    have hsum : -4096 ≤ signedCode range raw + k.offset ∧ signedCode range raw + k.offset ≤ 6142 := by
      rw [hcode]
      split <;> omega
    have hproduct := product_bounds hsum.1 hsum.2 hg
    have hquotient := tdiv_bounds ((signedCode range raw + k.offset) * k.gain)
    rw [show ((signedCode range raw + k.offset) * (k.gain : Int)).tdiv 32768 = correctionQuotient k range raw from rfl]
      at hquotient
    have hcases := correctedValue_cases k range raw
    have hid := correctedValue_identity range hraw
    rw [correctedLimits_eq] at hcases
    rw [hcode] at hsum hproduct hquotient hid
    obtain ⟨hpos, hneg⟩ := hquotient
    obtain ⟨hbelow, habove, hwithin, hsat⟩ := hcases
    exact ⟨hsum.1, hsum.2, hproduct.1, hproduct.2, hpos, hneg, hbelow, habove, hwithin, hsat, fun hk => hk ▸ hid⟩

/-! ### SET FILTER (R117) -/

theorem exec_setFilter (p : Port) (tag input setting : Byte) (s : State) : exec (.setFilter p tag input setting) s =
    .next (s.command p tag 2 ((decodeTimingInput input).isSome && (decodeFilter setting).isSome)
      (setFilterBody input setting)) := rfl

theorem decodeTimingInput_eq_none {b : Byte} (h : 8 ≤ b.toNat) : decodeTimingInput b = none :=
  Option.eq_none_iff_forall_ne_some.mpr fun n hn => by
    have := decodeTimingInput_eq_some.mp hn
    omega

theorem FilterSetting.micros_eq (f : FilterSetting) :
    f.micros = match f with | .off => 0 | .us2 => 2 | .us50 => 50 | .ms1 => 1000 := by cases f <;> rfl

theorem decodeFilter_byte (f : FilterSetting) : decodeFilter f.byte = some f := by cases f <;> rfl

theorem decodeFilter_eq_none {b : Byte} (h : 4 ≤ b.toNat) : decodeFilter b = none := by
  unfold decodeFilter
  split <;> simp_all

theorem State.inputBusy_iff (s : State) (n : TimingInput) : s.inputBusy n = true ↔
    ∃ e m, (s.engine e).state ≠ .free ∧ (s.engine e).measurement = some m ∧ m.input = n := by
  simp only [State.inputBusy, List.any_eq_true, Bool.and_eq_true, decide_eq_true_eq, Option.map_eq_some_iff]
  exact ⟨fun ⟨e, _, hs, m, hm, hn⟩ => ⟨e, m, hs, hm, hn⟩, fun ⟨e, m, hs, hm, hn⟩ => ⟨e, by fin_cases e <;> decide, hs, m, hm, hn⟩⟩

theorem DinContext.refilter_same {d : DinContext} {f : FilterSetting} (h : d.setting = f) : d.refilter f = d := if_pos h

theorem DinContext.refilter_settled {d : DinContext} {f : FilterSetting} (h : d.setting ≠ f) (hr : d.raw ≠ d.level)
    (hh : f.micros ≤ d.rawHeld) : d.refilter f = { d with setting := f, level := d.raw } := by
  rw [DinContext.refilter, if_neg h, if_pos ⟨hr, hh⟩]

theorem DinContext.refilter_unsettled {d : DinContext} {f : FilterSetting} (h : d.setting ≠ f)
    (hr : d.raw = d.level ∨ d.rawHeld < f.micros) : d.refilter f = { d with setting := f } := by
  rw [DinContext.refilter, if_neg h, if_neg]
  rintro ⟨hne, hh⟩
  rcases hr with hr | hr
  · exact hne hr
  · omega

section
variable {s : State} {p : Port} {tag : Byte} {n : TimingInput} {f : FilterSetting} {input setting : Byte}

theorem exec_setFilter_of_decoded (hn : decodeTimingInput input = some n) (hf : decodeFilter setting = some f) :
    exec (.setFilter p tag input setting) s = .next (s.command p tag 2 true (setFilterBody input setting)) := by
  rw [exec_setFilter, hn, hf]
  rfl

theorem answers_setFilter_busy (ha : s.accepts p = true) (hn : decodeTimingInput input = some n)
    (hf : decodeFilter setting = some f) (hb : s.inputBusy n = true) :
    Answers (.setFilter p tag input setting) s p tag .inputBusy [] s :=
  answers_refusal (exec_setFilter_of_decoded hn hf) ha fun v => by simp [setFilterBody, hn, hf, hb]

theorem answers_setFilter (ha : s.accepts p = true) (hn : decodeTimingInput input = some n)
    (hf : decodeFilter setting = some f) (hb : s.inputBusy n = false) :
    Answers (.setFilter p tag input setting) s p tag .ok [] (s.setDin n ((s.din n).refilter f)) :=
  answers_ok (exec_setFilter_of_decoded hn hf) ha fun v => by simp [setFilterBody, hn, hf, hb]

end

/-- Settles O36, by whether the operands lie within their encodings, the input is free and its level has settled. -/
theorem setFilterChangesAnIdleInput : Obligations.SetFilterChangesAnIdleInput := by
  intro s p tag input setting ha
  refine ⟨fun n f hinput hsetting => ?_, fun hr => ?_⟩
  · have hn := decodeTimingInput_eq_some.mpr hinput
    have hf : decodeFilter setting = some f := by
      have hb : setting = f.byte := hsetting.trans (by cases f <;> rfl)
      rw [hb, decodeFilter_byte]
    have htime := f.micros_eq
    refine ⟨htime, fun hb => answers_setFilter_busy ha hn hf ((s.inputBusy_iff n).mpr hb), fun hb => ?_⟩
    have hanswer := answers_setFilter (tag := tag) ha hn hf (Bool.eq_false_iff.mpr (mt (s.inputBusy_iff n).mp hb))
    refine ⟨fun hd => ?_, fun hd hraw hh => ?_, fun hd hraw => ?_⟩
    · rwa [DinContext.refilter_same hd, State.setDin_self] at hanswer
    · rwa [DinContext.refilter_settled hd hraw (htime.trans_le hh)] at hanswer
    · rwa [DinContext.refilter_unsettled hd (hraw.imp_right fun h => h.trans_eq htime.symm)] at hanswer
  · have hx := exec_setFilter p tag input setting s
    have hinvalid : ((decodeTimingInput input).isSome && (decodeFilter setting).isSome) = false := by
      rcases hr with h | h
      · rw [decodeTimingInput_eq_none h, Option.isSome_none, Bool.false_and]
      · rw [decodeFilter_eq_none h, Option.isSome_none, Bool.and_false]
    rw [hinvalid] at hx
    exact answers_badParameter hx ha

end Sys2Proof.Machine
end

section
/-! Transitions of the DIN inputs (R115, R116, R125 to R127) and the expiries of limits and gates (R127, R128). -/

namespace Sys2Proof.Machine

/-! ### Running time on -/

theorem laterHeld_zero (held : Nat) : laterHeld held 0 = held := by
  unfold laterHeld
  omega

/-- A pin that is to be seen as soon as `wait` more µs have passed has held its level for the filter time by then (log 26). -/
theorem le_laterHeld {held wait filter : Nat} (hf : filter ≤ 1000) (hw : filter - held ≤ wait) :
    filter ≤ laterHeld held wait := by
  unfold laterHeld Config.longestFilterMicros
  omega

theorem laterHeld_lt {held k filter : Nat} (hk : k < filter - held) : laterHeld held k < filter := by
  unfold laterHeld
  omega

@[simp] theorem TrgContext.elapse_zero (t : TrgContext) : t.elapse 0 = t := by
  rw [TrgContext.elapse, laterHeld_zero]

@[simp] theorem DinContext.elapse_zero (d : DinContext) : d.elapse 0 = d := by
  rw [DinContext.elapse, laterHeld_zero]

@[simp] theorem Converter.elapse_zero (v : Converter) : v.elapse 0 = v := rfl

@[simp] theorem Engine.elapse_zero (v : Engine) : v.elapse 0 = v := by
  unfold Engine.elapse
  split <;> rfl

@[simp] theorem PortState.elapse_zero (v : PortState) : v.elapse 0 = v := by
  unfold PortState.elapse
  split <;> rfl

theorem mapDins_get (f : DinContext → DinContext) (v : Vector DinContext 8) (n : TimingInput) : (mapDins f v)[n] = f v[n] := by
  fin_cases n <;> rfl

/-- No time at all changes nothing. -/
@[simp] theorem State.elapse_zero (s : State) : s.elapse 0 = s := by
  have hdins : mapDins (DinContext.elapse 0) s.dins = s.dins := by
    refine Vector.ext fun k hk => ?_
    exact (mapDins_get _ s.dins ⟨k, hk⟩).trans (DinContext.elapse_zero _)
  have hengines : mapEngines (Engine.elapse 0) s.engines = s.engines := by
    refine Vector.ext fun k hk => ?_
    exact (mapEngines_get _ s.engines ⟨k, hk⟩).trans (Engine.elapse_zero _)
  have hmicro : Fin.ofNat 10 s.micro.val = s.micro := Fin.ofNat_val_eq_self s.micro
  have hnow : s.now + BitVec.ofNat 32 (s.micro.val / 10) = s.now := by
    rw [Nat.div_eq_of_lt s.micro.isLt]
    exact BitVec.add_zero s.now
  simp only [State.elapse, hdins, hengines, Nat.add_zero, hmicro, hnow, TrgContext.elapse_zero,
    Converter.elapse_zero, PortState.elapse_zero]

theorem foldl_min_le (l : List Nat) (n : Nat) : l.foldl min n ≤ n := by
  induction l generalizing n with
  | nil => exact le_refl n
  | cons a l ih => exact (ih _).trans (min_le_left n a)

theorem foldl_min_eq {l : List Nat} {n w : Nat} (hn : w ≤ n) (hl : ∀ k ∈ l, w ≤ k) (hw : w ∈ l) : l.foldl min n = w := by
  induction l generalizing n with
  | nil => cases hw
  | cons a l ih =>
    rw [List.foldl_cons]
    have ha := hl a List.mem_cons_self
    rcases List.mem_cons.mp hw with rfl | hw
    · rw [min_eq_right hn]
      have hlow : ∀ (m : Nat), w ≤ m → w ≤ l.foldl min m := by
        clear ih hw hn ha
        have hl' : ∀ k ∈ l, w ≤ k := fun k hk => hl k (List.mem_cons_of_mem w hk)
        clear hl
        induction l with
        | nil => exact fun m hm => hm
        | cons b l ih' =>
          exact fun m hm => ih' (fun k hk => hl' k (List.mem_cons_of_mem b hk)) _ (le_min hm (hl' b List.mem_cons_self))
      exact le_antisymm (foldl_min_le l w) (hlow w le_rfl)
    · exact ih (le_min hn ha) (fun k hk => hl k (List.mem_cons_of_mem a hk)) hw

/-- Time runs on by no more than it is let. -/
theorem State.dwell_le (s : State) (n : Nat) : ∃ k ≤ n, s.dwell n = s.elapse k := ⟨_, foldl_min_le s.timers n, rfl⟩

@[simp] theorem State.dwell_zero (s : State) : s.dwell 0 = s := by
  rw [State.dwell, Nat.le_zero.mp (foldl_min_le s.timers 0), State.elapse_zero]

/-- Time runs on to a timer that no other precedes. -/
theorem State.dwell_of_timer {s : State} {n w : Nat} (hn : w ≤ n) (hs : s.NothingSooner w) (hw : w ∈ s.timers) :
    s.dwell n = s.elapse w := by
  rw [State.dwell, foldl_min_eq hn hs hw]

theorem State.timers_line {s : State} {l : TrgLine} {w : Nat} (h : (s.line l).left = some w) : w ∈ s.timers := by
  cases l <;> simp only [State.line] at h <;> simp [State.timers, h]

theorem State.timers_din {s : State} {n : TimingInput} {w : Nat} (h : (s.din n).left = some w) : w ∈ s.timers := by
  have hmem : s.din n ∈ s.dins.toList := by simp [State.din]
  have hleft : w ∈ s.dins.toList.filterMap DinContext.left := List.mem_filterMap.mpr ⟨_, hmem, h⟩
  simp [State.timers, hleft]

/-! ### DIN_TRANSITION (R115, R116) -/

theorem exec_dinTransition {s : State} (hr : s.resetAsserted = false) (n : TimingInput) (level : Level) (held : Nat) :
    exec (.dinTransition n level held) s = .next (((s.pinDin n level).dwell held).filterDin n) := by
  show Host.Outcome.next (if s.resetAsserted then s else _) = _
  rw [hr]
  rfl

theorem FilterSetting.micros_le (f : FilterSetting) : f.micros ≤ 1000 := by cases f <;> decide

section
variable {s : State} {n : TimingInput} {level : Level}

theorem State.filterDin_unsettled (h : (s.din n).raw = (s.din n).level ∨ (s.din n).rawHeld < (s.din n).setting.micros) :
    s.filterDin n = s := by
  refine if_neg ?_
  rintro ⟨hne, hh⟩
  rcases h with h | h
  · exact hne h
  · omega

theorem State.filterDin_settled (hne : (s.din n).raw ≠ (s.din n).level) (hh : (s.din n).setting.micros ≤ (s.din n).rawHeld) :
    s.filterDin n = s.dinEdge n (s.din n).raw := if_pos ⟨hne, hh⟩

@[simp] theorem State.dinEdge_din : (s.dinEdge n level).din n = { s.din n with level := level } := by
  show (s.setDin n { s.din n with level := level }).din n = _
  simp

theorem State.dinEdge_engine (e : EngineIndex) : (s.dinEdge n level).engine e = (s.engine e).see n level :=
  mapEngines_get (Engine.see n level) s.engines e

theorem State.filterDin_raw : ((s.filterDin n).din n).raw = (s.din n).raw := by
  unfold State.filterDin
  dsimp only
  split
  · simp
  · rfl

/-- What is due is taken once. -/
theorem State.filterDin_filterDin : (s.filterDin n).filterDin n = s.filterDin n := by
  by_cases h : (s.din n).raw ≠ (s.din n).level ∧ (s.din n).setting.micros ≤ (s.din n).rawHeld
  · rw [State.filterDin_settled h.1 h.2]
    exact State.filterDin_unsettled (.inl (by simp))
  · have hs : s.filterDin n = s := if_neg h
    rw [hs, hs]

theorem State.resetAsserted_filterDin : (s.filterDin n).resetAsserted = s.resetAsserted := by
  unfold State.filterDin
  dsimp only
  split <;> rfl

/-- `s` with input `n` at raw level `level`, which it has held since it last changed. -/
def State.withRawDin (s : State) (n : TimingInput) (level : Level) : State :=
  s.setDin n { s.din n with
    raw := level, rawHeld := if (s.din n).raw = level then (s.din n).rawHeld else 0 }

theorem State.pinDin_of_not_due (h : ¬ (level ≠ (s.din n).raw ∧ (s.din n).raw ≠ (s.din n).level ∧
    (s.din n).setting.micros ≤ (s.din n).rawHeld)) : s.pinDin n level = s.withRawDin n level := by
  unfold State.pinDin State.withRawDin
  by_cases hraw : (s.din n).raw = level
  · rw [if_pos hraw, if_pos hraw, ← hraw]
    exact (State.setDin_self s n).symm
  · rw [if_neg hraw, if_neg hraw]
    have hs : s.filterDin n = s := if_neg fun hd => h ⟨Ne.symm hraw, hd⟩
    simp only [hs]

/-- The transition that is due before a pin changes is taken first. -/
theorem State.pinDin_filterDin (h : level ≠ (s.din n).raw) : (s.filterDin n).pinDin n level = s.pinDin n level := by
  unfold State.pinDin
  rw [State.filterDin_raw, if_neg (Ne.symm h), if_neg (Ne.symm h), State.filterDin_filterDin]

end

theorem Polarity.activeLevel_eq (q : Polarity) : q.activeLevel = if q = .rising then .high else .low := by cases q <;> rfl

/-- R116, R125 to R127: what one engine makes of a transition. -/
theorem Engine.see_spec (n : TimingInput) (level : Level) (v : Engine) : EngineSees n level v (v.see n level) := by
  refine ⟨fun hm => ?_, fun m hm hn => ?_⟩
  · unfold Engine.see
    split
    · rfl
    · rename_i m hv
      exact if_neg fun hn => hm (by rw [hv, ← hn]; rfl)
  · have hsee : v.see n level = v.onTransition m level := by simp only [Engine.see, hm, hn, if_true]
    rw [hsee]
    unfold Engine.onTransition
    rw [Polarity.activeLevel_eq]
    refine ⟨fun hs ha => ?_, fun hs ha => ?_, fun hs hk ha => ?_, fun hs hk ha => ?_, fun hs hk ha => ?_,
      fun hs hk ha => ?_, fun hs ha => ?_, fun hs ha => ?_, fun hs => ?_⟩
    case refine_9 => rcases hs with hs | hs <;> simp only [hs]
    case refine_3 | refine_4 | refine_5 | refine_6 => simp [hs, hk, ha, Engine.completed, Engine.timed]
    all_goals simp [hs, ha, Config.countCeiling]

section
variable {s : State} {n : TimingInput} {level : Level} {held k wait : Nat}

theorem State.withRawDin_elapse_din : ((s.withRawDin n level).elapse k).din n = { s.din n with
    raw := level, rawHeld := laterHeld (if (s.din n).raw = level then (s.din n).rawHeld else 0) k } := by
  simp [State.withRawDin, DinContext.elapse]

/-- A level that holds for the filter time is one transition. -/
theorem exec_dinTransition_settled (hr : s.resetAsserted = false)
    (hfirst : ¬ (level ≠ (s.din n).raw ∧ (s.din n).raw ≠ (s.din n).level ∧
      (s.din n).setting.micros ≤ (s.din n).rawHeld)) (hne : level ≠ (s.din n).level)
    (hwait : wait = (s.din n).setting.micros - if (s.din n).raw = level then (s.din n).rawHeld else 0)
    (hw : wait ≤ held) (hs : (s.withRawDin n level).NothingSooner wait) :
    exec (.dinTransition n level held) s = .next (((s.withRawDin n level).elapse wait).dinEdge n level) := by
  have hleft : ((s.withRawDin n level).din n).left = some wait := by
    have hdin := State.withRawDin_elapse_din (s := s) (n := n) (level := level) (k := 0)
    rw [State.elapse_zero, laterHeld_zero] at hdin
    rw [hdin, hwait]
    exact if_neg hne
  have hdin := State.withRawDin_elapse_din (s := s) (n := n) (level := level) (k := wait)
  rw [exec_dinTransition hr, State.pinDin_of_not_due hfirst, State.dwell_of_timer hw hs (State.timers_din hleft),
    State.filterDin_settled] <;> rw [hdin]
  · exact hne
  · exact le_laterHeld (FilterSetting.micros_le _) hwait.ge

/-- A level that reverts or does not hold lets time pass alone. -/
theorem exec_dinTransition_unsettled (hr : s.resetAsserted = false)
    (hfirst : ¬ (level ≠ (s.din n).raw ∧ (s.din n).raw ≠ (s.din n).level ∧
      (s.din n).setting.micros ≤ (s.din n).rawHeld))
    (hno : level = (s.din n).level ∨
      held < (s.din n).setting.micros - if (s.din n).raw = level then (s.din n).rawHeld else 0) :
    ∃ k ≤ held, exec (.dinTransition n level held) s = .next ((s.withRawDin n level).elapse k) := by
  obtain ⟨k, hk, hdwell⟩ := (s.withRawDin n level).dwell_le held
  refine ⟨k, hk, ?_⟩
  rw [exec_dinTransition hr, State.pinDin_of_not_due hfirst, hdwell, State.filterDin_unsettled]
  rw [State.withRawDin_elapse_din]
  exact hno.imp_right fun hlt => laterHeld_lt (hk.trans_lt hlt)

end

/-- Settles O37: a transition that is due before the pin changes, one that comes in time, and none. -/
theorem dinTransitionReachesTheEngines : Obligations.DinTransitionReachesTheEngines := by
  intro s n level held hr
  refine ⟨fun hfirst => ?_, fun hfirst hne hw hs => ?_, exec_dinTransition_unsettled hr⟩
  · obtain ⟨hne, -, -⟩ := hfirst
    refine ⟨_, exec_dinTransition hr n _ 0, ?_⟩
    have hpin : s.pinDin n (s.din n).raw = s := if_pos rfl
    rw [hpin, State.dwell_zero, exec_dinTransition hr, exec_dinTransition (State.resetAsserted_filterDin.trans hr),
      State.pinDin_filterDin hne]
  · refine ⟨_, exec_dinTransition_settled hr hfirst hne rfl hw hs, by simp, fun e => ?_, rfl⟩
    rw [State.dinEdge_engine]
    exact Engine.see_spec n level _

/-! ### LIMIT_EXPIRY and GATE_EXPIRY (R127, R128) -/

/-- Settles O38: the expiry of an engine that measures is the time its age has left. -/
theorem limitAndGateExpiriesEndTheMeasurement : Obligations.LimitAndGateExpiriesEndTheMeasurement := by
  intro s e hr wait u hs
  have hrun := State.runTo_of_nothingSooner hs
  refine ⟨fun hst => ?_, fun hst => ?_⟩
  · have hlimited : (s.engine e).limited = true := by rcases hst with h | h <;> simp [Engine.limited, h]
    have hleft : (s.engine e).left = some ((s.engine e).expiry - (s.engine e).age) := by
      rcases hst with h | h <;> simp only [Engine.left, h]
    have hx : exec (.limitExpiry e) s = .next (if s.resetAsserted ∨ (s.engine e).limited = false then s else
      match s.runTo (s.engine e).left with
      | none => s
      | some s' => s'.setEngine e ((s'.engine e).completed .stalled (s'.engine e).expiry)) := rfl
    rw [hx, if_neg (by simp [hr, hlimited]), hleft, hrun]
    have hexpiry : (u.engine e).expiry = (s.engine e).expiry := by simp [u]
    exact congrArg (fun n => Host.Outcome.next (u.setEngine e ((u.engine e).completed .stalled n))) hexpiry
  · have hleft : (s.engine e).left = some ((s.engine e).expiry - (s.engine e).age) := by simp only [Engine.left, hst]
    have hx : exec (.gateExpiry e) s = .next (if s.resetAsserted ∨ (s.engine e).state ≠ .gating then s else
      match s.runTo (s.engine e).left with
      | none => s
      | some s' => s'.setEngine e ((s'.engine e).completed .normal (s'.engine e).count)) := rfl
    rw [hx, if_neg (by simp [hr, hst]), hleft, hrun]
    have hcount : (u.engine e).count = (s.engine e).count := by simp [u]
    exact congrArg (fun n => Host.Outcome.next (u.setEngine e ((u.engine e).completed .normal n))) hcount

end Sys2Proof.Machine
end

section
/-! Transitions of the trigger lines and their waiting edges (R69 to R71, R73). -/

namespace Sys2Proof.Machine

/-! ### What is taken of an edge (R71) -/

theorem State.fanOut_line (s : State) (l : TrgLine) (k n : Nat) :
    (s.fanOut l k n).line l = { s.line l with fanOut := if k + n < 64 then some (k + n) else none } := by
  simp [State.fanOut, State.line_eq_of_surroundings (State.surroundings_fanOutTo_foldl s l _) l]

section
variable {s : State} {l : TrgLine} {n : Nat}

theorem State.takeEdge_off (h : (s.line l).mode = .off) : s.takeEdge l n = s := by
  simp only [State.takeEdge, h]

theorem State.takeEdge_every (h : (s.line l).mode = .every) : s.takeEdge l n = s.fanOut l 0 n := by
  simp only [State.takeEdge, h]

theorem State.takeEdge_spent (h : (s.line l).mode = .once) (hs : (s.line l).sub = some .spent) : s.takeEdge l n = s := by
  simp only [State.takeEdge, h, hs]

theorem State.takeEdge_ready (h : (s.line l).mode = .once) (hs : (s.line l).sub = some .ready) :
    s.takeEdge l n = (s.setLine l { s.line l with sub := some .spent }).fanOut l 0 n := by
  simp only [State.takeEdge, h, hs]

/-- Taking an edge leaves the pin and its filter. -/
theorem State.takeEdge_levels (s : State) (l : TrgLine) (n : Nat) :
    ((s.takeEdge l n).line l).raw = (s.line l).raw ∧ ((s.takeEdge l n).line l).level = (s.line l).level := by
  unfold State.takeEdge
  dsimp only
  split
  · simp [State.fanOut_line]
  · simp [State.fanOut_line]
  · exact ⟨rfl, rfl⟩

/-- An edge that comes to `v` on the line is taken by its mode and sub-state. -/
theorem State.setLine_takeEdge (s : State) (l : TrgLine) (v : TrgContext) (n : Nat) :
    let t := (s.setLine l v).takeEdge l n
    (v.mode = .off → t = s.setLine l v) ∧ (v.mode = .every → t = (s.setLine l v).fanOut l 0 n) ∧
      (v.mode = .once → v.sub = some .spent → t = s.setLine l v) ∧
      (v.mode = .once → v.sub = some .ready → t = (s.setLine l { v with sub := some .spent }).fanOut l 0 n) := by
  have hv : (s.setLine l v).line l = v := by simp
  refine ⟨fun h => State.takeEdge_off (by rw [hv, h]), fun h => State.takeEdge_every (by rw [hv, h]),
    fun h hs => State.takeEdge_spent (by rw [hv, h]) (by rw [hv, hs]), fun h hs => ?_⟩
  have ht := State.takeEdge_ready (s := s.setLine l v) (l := l) (n := n) (by rw [hv, h]) (by rw [hv, hs])
  rwa [State.setLine_setLine, hv] at ht

end

/-! ### TRG_TRANSITION (R69 to R71) -/

theorem exec_trgTransition {s : State} (hr : s.resetAsserted = false) (l : TrgLine) (level : Level) (held examined : Nat) :
    exec (.trgTransition l level held examined) s =
      .next (((s.pinTrg l level examined).dwell held).filterTrg l examined) := by
  show Host.Outcome.next (if s.resetAsserted then s else _) = _
  rw [hr]
  rfl

theorem TrgEdge.accepts_iff (e : TrgEdge) (level : Level) : e.accepts level = true ↔
    e = .both ∨ (e = .rising ∧ level = .high) ∨ (e = .falling ∧ level = .low) := by
  cases e <;> cases level <;> simp [TrgEdge.accepts]

section
variable {s : State} {l : TrgLine} {level : Level} {n held k wait : Nat}

theorem State.filterTrg_unsettled (h : (s.line l).raw = (s.line l).level ∨ (s.line l).rawHeld < 2) : s.filterTrg l n = s := by
  refine if_neg ?_
  rintro ⟨hne, hh⟩
  rcases h with h | h
  · exact hne h
  · exact absurd hh (Nat.not_le.mpr h)

theorem State.filterTrg_settled (hne : (s.line l).raw ≠ (s.line l).level) (hh : 2 ≤ (s.line l).rawHeld) :
    s.filterTrg l n = s.trgEdge l n := if_pos ⟨hne, hh⟩

/-- After a transition the filtered level is the raw one, which stands. -/
theorem State.trgEdge_levels (s : State) (l : TrgLine) (n : Nat) :
    ((s.trgEdge l n).line l).raw = (s.line l).raw ∧ ((s.trgEdge l n).line l).level = (s.line l).raw := by
  unfold State.trgEdge
  dsimp only
  split
  · split
    · simp
    · obtain ⟨hraw, hlevel⟩ := State.takeEdge_levels (s.setLine l { s.line l with
        level := (s.line l).raw, count := (s.line l).count + 1 }) l n
      exact ⟨hraw.trans (by simp), hlevel.trans (by simp)⟩
  · simp

theorem State.filterTrg_raw : ((s.filterTrg l n).line l).raw = (s.line l).raw := by
  unfold State.filterTrg
  dsimp only
  split
  · exact (State.trgEdge_levels s l n).1
  · rfl

/-- What is due is taken once. -/
theorem State.filterTrg_filterTrg : (s.filterTrg l n).filterTrg l n = s.filterTrg l n := by
  by_cases h : (s.line l).raw ≠ (s.line l).level ∧ 2 ≤ (s.line l).rawHeld
  · rw [State.filterTrg_settled h.1 h.2]
    obtain ⟨hraw, hlevel⟩ := State.trgEdge_levels s l n
    exact State.filterTrg_unsettled (.inl (hraw.trans hlevel.symm))
  · have hs : s.filterTrg l n = s := if_neg h
    rw [hs, hs]

theorem State.resetAsserted_fanOut (s : State) (l : TrgLine) (k n : Nat) :
    (s.fanOut l k n).resetAsserted = s.resetAsserted := by
  have h : (s.fanOut l k n).resetAsserted =
      (((allEntries.drop k).take n).foldl (State.fanOutTo l) s).resetAsserted := by
    unfold State.fanOut
    cases l <;> rfl
  exact h.trans (congrArg State.resetAsserted (State.surroundings_fanOutTo_foldl s l _) :)

theorem State.resetAsserted_filterTrg : (s.filterTrg l n).resetAsserted = s.resetAsserted := by
  unfold State.filterTrg State.trgEdge State.takeEdge
  dsimp only
  split
  · split
    · split
      · simp
      · split <;> simp [State.resetAsserted_fanOut]
    · simp
  · rfl

/-- `s` with line `l` at raw level `level`, which it has held since it last changed. -/
def State.withRawTrg (s : State) (l : TrgLine) (level : Level) : State :=
  s.setLine l { s.line l with raw := level, rawHeld := if (s.line l).raw = level then (s.line l).rawHeld else 0 }

theorem State.withRawTrg_elapse_line : ((s.withRawTrg l level).elapse k).line l = { s.line l with
    raw := level, rawHeld := laterHeld (if (s.line l).raw = level then (s.line l).rawHeld else 0) k } := by
  simp [State.withRawTrg, TrgContext.elapse]

theorem State.pinTrg_of_not_due (h : ¬ (level ≠ (s.line l).raw ∧ (s.line l).raw ≠ (s.line l).level ∧
    2 ≤ (s.line l).rawHeld)) : s.pinTrg l level n = s.withRawTrg l level := by
  unfold State.pinTrg State.withRawTrg
  by_cases hraw : (s.line l).raw = level
  · rw [if_pos hraw, if_pos hraw, ← hraw]
    exact (State.setLine_self s l).symm
  · rw [if_neg hraw, if_neg hraw]
    have hs : s.filterTrg l n = s := if_neg fun hd => h ⟨Ne.symm hraw, hd⟩
    simp only [hs]

/-- The transition that is due before a pin changes is taken first. -/
theorem State.pinTrg_filterTrg (h : level ≠ (s.line l).raw) : (s.filterTrg l n).pinTrg l level n = s.pinTrg l level n := by
  unfold State.pinTrg
  rw [State.filterTrg_raw, if_neg (Ne.symm h), if_neg (Ne.symm h), State.filterTrg_filterTrg]

/-- A level that holds for 2 µs is one transition. -/
theorem exec_trgTransition_settled (hr : s.resetAsserted = false)
    (hfirst : ¬ (level ≠ (s.line l).raw ∧ (s.line l).raw ≠ (s.line l).level ∧ 2 ≤ (s.line l).rawHeld))
    (hne : level ≠ (s.line l).level)
    (hwait : wait = 2 - if (s.line l).raw = level then (s.line l).rawHeld else 0)
    (hw : wait ≤ held) (hs : (s.withRawTrg l level).NothingSooner wait) :
    exec (.trgTransition l level held n) s = .next (((s.withRawTrg l level).elapse wait).trgEdge l n) := by
  have hleft : ((s.withRawTrg l level).line l).left = some wait := by
    have hline := State.withRawTrg_elapse_line (s := s) (l := l) (level := level) (k := 0)
    rw [State.elapse_zero, laterHeld_zero] at hline
    rw [hline, hwait]
    exact if_neg hne
  have hline := State.withRawTrg_elapse_line (s := s) (l := l) (level := level) (k := wait)
  rw [exec_trgTransition hr, State.pinTrg_of_not_due hfirst, State.dwell_of_timer hw hs (State.timers_line hleft),
    State.filterTrg_settled] <;> rw [hline]
  · exact hne
  · exact le_laterHeld (by decide) hwait.ge

/-- A level that reverts or does not hold lets time pass alone. -/
theorem exec_trgTransition_unsettled (hr : s.resetAsserted = false)
    (hfirst : ¬ (level ≠ (s.line l).raw ∧ (s.line l).raw ≠ (s.line l).level ∧ 2 ≤ (s.line l).rawHeld))
    (hno : level = (s.line l).level ∨ held < 2 - if (s.line l).raw = level then (s.line l).rawHeld else 0) :
    ∃ k ≤ held, exec (.trgTransition l level held n) s = .next ((s.withRawTrg l level).elapse k) := by
  obtain ⟨k, hk, hdwell⟩ := (s.withRawTrg l level).dwell_le held
  refine ⟨k, hk, ?_⟩
  rw [exec_trgTransition hr, State.pinTrg_of_not_due hfirst, hdwell, State.filterTrg_unsettled]
  rw [State.withRawTrg_elapse_line]
  exact hno.imp_right fun hlt => laterHeld_lt (hk.trans_lt hlt)

end

/-- One transition by the edge setting and by whether a fan-out is in progress (R70, R71, R73). -/
theorem State.trgEdge_cases {s : State} {l : TrgLine} {level : Level} (hraw : (s.line l).raw = level) (n : Nat) :
    let seen : TrgContext := { s.line l with level := level }
    let counted : TrgContext := { seen with count := seen.count + 1 }
    ((s.line l).edge.accepts level = false → s.trgEdge l n = s.setLine l seen) ∧
    ((s.line l).edge.accepts level = true → (s.line l).fanOut ≠ none →
      s.trgEdge l n = s.setLine l { counted with waiting := true }) ∧
    ((s.line l).edge.accepts level = true → (s.line l).fanOut = none →
      s.trgEdge l n = (s.setLine l counted).takeEdge l n) := by
  unfold State.trgEdge
  simp only [hraw]
  refine ⟨fun h => ?_, fun h hf => ?_, fun h hf => ?_⟩
  · rw [h]
    rfl
  · rw [h, if_pos rfl, if_pos (Option.isSome_iff_ne_none.mpr hf)]
  · rw [h, hf]
    rfl

/-- Settles O41: a transition that is due before the pin changes, one that comes in time, and none. -/
theorem triggerTransitionsAreCountedAndTaken : Obligations.TriggerTransitionsAreCountedAndTaken := by
  intro s l level held examined hr x heldNow s' wait first u seen counted accepted answers
  refine ⟨fun hfirst => ?_, fun hfirst hne hw hs => ?_, exec_trgTransition_unsettled hr⟩
  · obtain ⟨hne, -, -⟩ := hfirst
    refine ⟨_, exec_trgTransition hr l _ 0 examined, ?_⟩
    have hpin : s.pinTrg l x.raw examined = s := if_pos rfl
    rw [hpin, State.dwell_zero, exec_trgTransition hr, exec_trgTransition (State.resetAsserted_filterTrg.trans hr),
      State.pinTrg_filterTrg hne]
  · have hx : exec (.trgTransition l level held examined) s = .next (u.trgEdge l examined) :=
      exec_trgTransition_settled hr hfirst hne rfl hw hs
    have hline : u.line l = { s.line l with raw := level, rawHeld := laterHeld heldNow wait } :=
      State.withRawTrg_elapse_line
    have haccepts : (u.line l).edge.accepts level = true ↔ accepted := by
      rw [hline]
      exact TrgEdge.accepts_iff x.edge level
    have hfan : (u.line l).fanOut = x.fanOut := by rw [hline]
    have hmode : counted.mode = x.mode := by show (u.line l).mode = x.mode; rw [hline]
    have hsub : counted.sub = x.sub := by show (u.line l).sub = x.sub; rw [hline]
    obtain ⟨hignored, hwaits, htaken⟩ := State.trgEdge_cases (s := u) (l := l) (level := level) (by rw [hline]) examined
    refine ⟨fun ha => ?_, fun ha hf => ?_, fun ha hf => ?_⟩
    · exact hx.trans (congrArg _ (hignored (Bool.eq_false_iff.mpr (mt haccepts.mp ha))))
    · exact hx.trans (congrArg _ (hwaits (haccepts.mpr ha) (by rwa [hfan])))
    · have hx' := hx.trans (congrArg _ (htaken (haccepts.mpr ha) (hfan.trans hf)))
      obtain ⟨hoff, hevery, hspent, hready⟩ := State.setLine_takeEdge u l counted examined
      exact ⟨fun h => hx'.trans (congrArg _ (hoff (hmode.trans h))),
        fun h => hx'.trans (congrArg _ (hevery (hmode.trans h))),
        fun h hs => hx'.trans (congrArg _ (hspent (hmode.trans h) (hsub.trans hs))),
        fun h hs => hx'.trans (congrArg _ (hready (hmode.trans h) (hsub.trans hs)))⟩

/-! ### WAITING_EDGE (R73) -/

theorem exec_waitingEdge {s : State} (hr : s.resetAsserted = false) (l : TrgLine) (n : Nat) :
    exec (.waitingEdge l n) s = .next (s.goOn l n) := by
  show Host.Outcome.next (if s.resetAsserted then s else _) = _
  rw [hr]
  rfl

section
variable {s : State} {l : TrgLine} {n k : Nat}

theorem State.takeWaiting_of_waiting (h : (s.line l).waiting = true) :
    s.takeWaiting l n = (s.setLine l { s.line l with waiting := false }).takeEdge l n := if_pos h

theorem State.takeWaiting_of_none (h : (s.line l).waiting = false) : s.takeWaiting l n = s :=
  if_neg (by simp [h])

theorem State.goOn_idle (h : (s.line l).fanOut = none) : s.goOn l n = s.takeWaiting l n := by
  simp only [State.goOn, h]

theorem State.goOn_fanOut (h : (s.line l).fanOut = some k) : s.goOn l n =
    if k + n < 64 then s.fanOut l k n else (s.fanOut l k n).takeWaiting l (k + n - 64) := by
  simp only [State.goOn, h]

theorem State.fanOut_waiting : ((s.fanOut l k n).line l).waiting = (s.line l).waiting := by rw [State.fanOut_line]

end

/-- Settles O43, by whether a fan-out is in progress, ends with these entries, and has an edge waiting behind it. -/
theorem waitingEdgeIsTakenAfterTheFanOut : Obligations.WaitingEdgeIsTakenAfterTheFanOut := by
  intro s l n hr x answers taken
  have hx := exec_waitingEdge hr l n
  have htaken : ∀ u m, (u.line l).waiting = true → s.goOn l n = u.takeWaiting l m → taken u m := by
    intro u m hwait hgo
    rw [hgo, State.takeWaiting_of_waiting hwait] at hx
    obtain ⟨hoff, hevery, hspent, hready⟩ := State.setLine_takeEdge u l { u.line l with waiting := false } m
    exact ⟨fun h => hx.trans (congrArg _ (hoff h)), fun h => hx.trans (congrArg _ (hevery h)),
      fun h hs => hx.trans (congrArg _ (hspent h hs)), fun h hs => hx.trans (congrArg _ (hready h hs))⟩
  refine ⟨⟨_, hx⟩, fun k hf hend => ?_, fun k hf hend hwait => ?_, fun hf hwait => ?_, fun hf hwait => ?_⟩
  · refine hx.trans (congrArg _ ?_)
    rw [State.goOn_fanOut hf]
    split
    · rfl
    · rename_i hk
      exact State.takeWaiting_of_none (State.fanOut_waiting.trans (hend.resolve_left hk))
  · refine htaken _ _ (State.fanOut_waiting.trans hwait) ?_
    rw [State.goOn_fanOut hf, if_neg (by omega)]
  · exact hx.trans (congrArg _ ((State.goOn_idle hf).trans (State.takeWaiting_of_none hwait)))
  · exact htaken s n hwait (State.goOn_idle hf)

end Sys2Proof.Machine
end

section
/-! Fan-out (R63, R72 to R74): each examined entry is taken on its own, and a line's context has no part in it. -/

namespace Sys2Proof.Machine

/-! ### The entries that a fan-out examines -/

theorem allEntries_get {j : Nat} (h : j < allEntries.length) : allEntries[j] = ⟨j, by simpa [allEntries] using h⟩ := by
  have hj : j < 64 := by simpa [allEntries] using h
  simp [allEntries, Fin.ext_iff, Nat.mod_eq_of_lt hj]

theorem mem_examined (k n : Nat) (i : EntryIndex) : i ∈ (allEntries.drop k).take n ↔ k ≤ i.val ∧ i.val < k + n := by
  have hlen : allEntries.length = 64 := by simp [allEntries]
  rw [List.mem_take_iff_getElem]
  constructor
  · rintro ⟨j, hj, rfl⟩
    rw [List.getElem_drop, allEntries_get]
    dsimp only
    omega
  · rintro ⟨hk, hn⟩
    have hi := i.isLt
    refine ⟨i.val - k, by rw [List.length_drop, hlen]; omega, ?_⟩
    rw [List.getElem_drop, allEntries_get]
    exact Fin.ext (by dsimp only; omega)

theorem examined_nodup (k n : Nat) : ((allEntries.drop k).take n).Nodup :=
  (allEntries_sorted.imp fun h => ne_of_lt h).sublist ((List.take_sublist _ _).trans (List.drop_sublist _ _))

/-! ### One entry -/

/-- Watch `w` of entry `i` is ARMED and bound to line `l` (R72). -/
def State.BoundTo (s : State) (l : TrgLine) (i : EntryIndex) (w : Watch) : Prop :=
  (s.entry i).state = .armed ∧ (s.entry i).watch = some w ∧ w.defn.contract.start = .trg l

section
variable {s : State} {l : TrgLine} {i j : EntryIndex} {w : Watch} {q : Port}

theorem State.fanOutTo_of_bound (h : s.BoundTo l i w) : State.fanOutTo l s i = (s.startAny i w).1 := by
  obtain ⟨hs, hw, hl⟩ := h
  simp only [State.fanOutTo, hs, hw, hl, if_true]

theorem State.fanOutTo_of_not_bound (h : ∀ w, ¬ s.BoundTo l i w) : State.fanOutTo l s i = s := by
  unfold State.fanOutTo
  split
  · rename_i w hs hw
    exact if_neg fun hl => h w ⟨hs, hw, hl⟩
  · rfl

theorem State.fanOutTo_policy (h : s.BoundTo l i w) (hp : s.isHeld = true ∨ (s.entry i).activity ≠ .none) :
    ∃ d, s.PolicyTaken i w (State.fanOutTo l s i) d := by
  have hpolicy : s.startAny i w = s.startByPolicy i w := by
    unfold State.startAny State.startRequest
    rcases hp with hp | hp <;> simp [hp]
  rw [State.fanOutTo_of_bound h, hpolicy]
  exact ⟨_, State.startByPolicy_spec h.2.1⟩

theorem State.fanOutTo_start (h : s.BoundTo l i w) (hh : s.isHeld = false) :
    State.fanOutTo l s i = (s.startRequest i w).1 := by
  rw [State.fanOutTo_of_bound h, State.startAny, hh]
  rfl

theorem State.afterOverrun_entry_self (s : State) (i : EntryIndex) (w : Watch) : (s.afterOverrun i w).entry i =
    { s.entry i with watch := some { w with dyn := { w.dyn with overruns := min 255 (w.dyn.overruns + 1) } } } := by
  simp [State.afterOverrun]

/-- A submission that is not refused leaves its watch QUEUED. -/
theorem State.submit_entry (s : State) (i : EntryIndex) (n : AnalogInput) (r : Fin 4) (d : Nat)
    (h : (s.submit i n r d).2 ≠ .overrun) : (s.submit i n r d).1.entry i = { s.entry i with activity := .queued } := by
  revert h
  unfold State.submit
  dsimp only
  split
  · simp
  · split
    · simp
    · exact fun h => absurd rfl h

/-- The work that a start of an idle watch begins, as its entry shows it (R55, R56). -/
theorem State.startRequest_entry_idle (hw : (s.entry i).watch = some w) (ha : (s.entry i).activity = .none) :
    (∀ k n pol span, w.defn.contract.measure = .timing k n pol span →
      ((s.startRequest i w).1.entry i = { s.entry i with activity := .measuring } ∨
        (s.startRequest i w).1.entry i = { s.entry i with activity := .awaitingEngine })) ∧
    (∀ n r d, w.defn.contract.measure = .level n r d →
      ((s.startRequest i w).1.entry i = { s.entry i with activity := .queued } ∨
        (s.startRequest i w).1.entry i =
          { s.entry i with watch := some { w with dyn := { w.dyn with overruns := min 255 (w.dyn.overruns + 1) } } })) := by
  rw [State.startRequest, if_pos ha, State.startWork]
  refine ⟨fun k n pol span hm => ?_, fun n r d hm => ?_⟩
  · rw [hm]
    dsimp only
    unfold State.requestEngine State.assignEngine
    split
    · left
      simp
    · right
      rw [State.setActivity_entry, if_pos rfl]
      rfl
  · rw [hm]
    dsimp only
    have hsub := State.submit_entry s i n r d
    generalize s.submit i n r d = x at hsub
    obtain ⟨t, disposition⟩ := x
    cases disposition
    case overrun =>
      right
      rw [State.overrunStart, State.countOverrun_of_watch hw]
      exact State.afterOverrun_entry_self s i w
    all_goals exact .inl (hsub nofun)

end

/-! ### What an entry's start leaves of the others, and of the rest -/

/-- What a start shows of entry `i` and its member in the attention set of `q`. -/
def State.shown (s : State) (q : Port) (i : EntryIndex) : Entry × Bool × CauseSet :=
  (s.entry i, s.isHeld, (s.attention q).causes[i])

theorem State.startByPolicy_cases (s : State) (i : EntryIndex) (w : Watch) :
    (s.startByPolicy i w).1 = s.updateWatch i (fun w => { w with dyn := { w.dyn with heldTrigger := true } }) ∨
      (s.startByPolicy i w).1 = s.countOverrun i := by
  unfold State.startByPolicy State.overrunStart
  split
  · exact .inl rfl
  · exact .inr rfl

/-- A start begins work, sets a held trigger or counts an overrun. -/
theorem State.startRequest_cases (s : State) (i : EntryIndex) (w : Watch) :
    (s.startRequest i w).1.register = s.register ∨
      (s.startRequest i w).1 = s.updateWatch i (fun w => { w with dyn := { w.dyn with heldTrigger := true } }) ∨
      (s.startRequest i w).1 = s.countOverrun i := by
  unfold State.startRequest State.startWork
  split
  · split
    · rename_i n r d _
      have hsub := State.register_submit s i n r d
      generalize s.submit i n r d = x at hsub
      obtain ⟨t, disposition⟩ := x
      cases disposition
      case overrun => exact .inr (.inr rfl)
      all_goals exact .inl hsub
    · exact .inl (State.register_requestEngine _ _ _ _)
  · exact .inr (s.startByPolicy_cases i w)

theorem State.startAny_cases (s : State) (i : EntryIndex) (w : Watch) :
    (s.startAny i w).1.register = s.register ∨
      (s.startAny i w).1 = s.updateWatch i (fun w => { w with dyn := { w.dyn with heldTrigger := true } }) ∨
      (s.startAny i w).1 = s.countOverrun i := by
  unfold State.startAny
  split
  · exact .inr (s.startByPolicy_cases i w)
  · exact s.startRequest_cases i w

section
variable {s : State} {l : TrgLine} {i j : EntryIndex} {w : Watch} {q : Port}

theorem State.raise_causes_of_ne (s : State) (h : i ≠ j) (q : Port) (cs : CauseSet) :
    ((s.raise j cs).attention q).causes[i] = (s.attention q).causes[i] := by
  unfold State.raise State.addCauses
  split
  · rfl
  · rw [State.attention_setAttention]
    split
    · rename_i hq
      subst hq
      simp [Fin.val_ne_of_ne (Ne.symm h)]
    · rfl

@[simp] theorem State.attention_updateWatch (s : State) (i : EntryIndex) (f : Watch → Watch) (q : Port) :
    (s.updateWatch i f).attention q = s.attention q := by
  unfold State.updateWatch
  split <;> simp

theorem State.startAny_causes_of_ne (h : i ≠ j) :
    ((s.startAny j w).1.attention q).causes[i] = (s.attention q).causes[i] := by
  rcases s.startAny_cases j w with hr | hr | hr
  · rw [(State.register_congr hr).2.2.2 q]
  · rw [hr, State.attention_updateWatch]
  · rw [hr, State.countOverrun, State.raise_causes_of_ne _ h, State.attention_updateWatch]

theorem State.startAny_entry_of_ne (h : i ≠ j) : (s.startAny j w).1.entry i = s.entry i := by
  unfold State.startAny
  split
  · exact State.startByPolicy_entry_of_ne s w (Ne.symm h)
  · exact State.startRequest_entry_of_ne s w (Ne.symm h)

/-- A fan-out's start of one entry is not seen at another. -/
theorem State.fanOutTo_shown_of_ne (h : i ≠ j) : (State.fanOutTo l s j).shown q i = s.shown q i := by
  by_cases hb : ∃ w, s.BoundTo l j w
  · obtain ⟨w, hb⟩ := hb
    have hheld := State.isHeld_eq_of_surroundings (State.surroundings_fanOutTo s l j)
    rw [State.shown, hheld, State.fanOutTo_of_bound hb, State.startAny_entry_of_ne h, State.startAny_causes_of_ne h]
    rfl
  · rw [State.fanOutTo_of_not_bound (not_exists.mp hb)]

/-- An entry is taken by a fan-out as it stands before it, and no other entry's start is seen there. -/
theorem State.foldl_fanOutTo_shown {is : List EntryIndex} (hd : is.Nodup) (s : State) :
    (i ∉ is → (is.foldl (State.fanOutTo l) s).shown q i = s.shown q i) ∧
    (i ∈ is → ∃ u : State, u.shown q i = s.shown q i ∧
      (is.foldl (State.fanOutTo l) s).shown q i = (State.fanOutTo l u i).shown q i) := by
  induction is generalizing s with
  | nil => exact ⟨fun _ => rfl, nofun⟩
  | cons j is ih =>
    obtain ⟨hj, hd⟩ := List.nodup_cons.mp hd
    obtain ⟨hout, hin⟩ := ih hd (State.fanOutTo l s j)
    refine ⟨fun hi => ?_, fun hi => ?_⟩
    · rw [List.foldl_cons, hout fun h => hi (List.mem_cons_of_mem j h)]
      exact State.fanOutTo_shown_of_ne fun h => hi (h ▸ List.mem_cons_self)
    · rcases List.mem_cons.mp hi with rfl | hi
      · exact ⟨s, rfl, hout hj⟩
      · obtain ⟨u, hu, ht⟩ := hin hi
        exact ⟨u, hu.trans (State.fanOutTo_shown_of_ne fun h => hj (h ▸ hi)), ht⟩

theorem State.fanOut_shown (s : State) (l : TrgLine) (k n : Nat) (q : Port) (i : EntryIndex) :
    (s.fanOut l k n).shown q i = (((allEntries.drop k).take n).foldl (State.fanOutTo l) s).shown q i := by
  simp [State.fanOut, State.shown]

/-- Under a hold a start changes nothing but entries and attention sets (R63). -/
def State.beyondTable (s : State) : State :=
  { s with entries := Vector.replicate 64 Entry.powerOn, attentionA := Attention.afterReset, attentionB := Attention.afterReset }

theorem State.beyondTable_updateWatch (s : State) (i : EntryIndex) (f : Watch → Watch) :
    (s.updateWatch i f).beyondTable = s.beyondTable := by
  unfold State.updateWatch
  split <;> rfl

theorem State.beyondTable_countOverrun (s : State) (i : EntryIndex) : (s.countOverrun i).beyondTable = s.beyondTable := by
  have hraise : ∀ (u : State) cs, (u.raise i cs).beyondTable = u.beyondTable := by
    intro u cs
    unfold State.raise
    split
    · rfl
    · rename_i w _
      cases h : w.defn.owner <;> simp only [State.addCauses, State.setAttention] <;> rfl
  rw [State.countOverrun, hraise, State.beyondTable_updateWatch]

theorem State.beyondTable_fanOutTo (h : s.isHeld = true) : (State.fanOutTo l s i).beyondTable = s.beyondTable := by
  unfold State.fanOutTo
  split
  · split
    · rw [State.startAny, h, if_pos rfl, State.startByPolicy]
      split
      · exact State.beyondTable_updateWatch s i _
      · exact State.beyondTable_countOverrun s i
    · rfl
  · rfl

theorem State.beyondTable_foldl_fanOutTo (is : List EntryIndex) (h : s.isHeld = true) :
    (is.foldl (State.fanOutTo l) s).beyondTable = s.beyondTable := by
  induction is generalizing s with
  | nil => rfl
  | cons i is ih =>
    have hheld := State.isHeld_eq_of_surroundings (State.surroundings_fanOutTo s l i)
    rw [List.foldl_cons, ih (hheld.trans h), State.beyondTable_fanOutTo h]

theorem State.eq_of_beyondTable {t : State} (h : t.beyondTable = s.beyondTable) :
    { t with entries := s.entries, attentionA := s.attentionA, attentionB := s.attentionB } = s :=
  congrArg (fun u : State => { u with entries := s.entries, attentionA := s.attentionA, attentionB := s.attentionB }) h

end

end Sys2Proof.Machine
end

section
/-! Fan-outs put together (R63, R72 to R74). -/

namespace Sys2Proof.Machine

/-! ### A line's context has no part in a start -/

section
variable (s : State) (l : TrgLine) (v : TrgContext)

@[simp] theorem State.setEntry_setLine (i : EntryIndex) (e : Entry) :
    (s.setLine l v).setEntry i e = (s.setEntry i e).setLine l v := by cases l <;> rfl

@[simp] theorem State.setActivity_setLine (i : EntryIndex) (a : Activity) :
    (s.setLine l v).setActivity i a = (s.setActivity i a).setLine l v := by cases l <;> rfl

@[simp] theorem State.setAttention_setLine (p : Port) (a : Attention) :
    (s.setLine l v).setAttention p a = (s.setAttention p a).setLine l v := by cases l <;> cases p <;> rfl

@[simp] theorem State.setConverter_setLine (c : ConverterId) (x : Converter) :
    (s.setLine l v).setConverter c x = (s.setConverter c x).setLine l v := by cases l <;> cases c <;> rfl

@[simp] theorem State.updateWatch_setLine (i : EntryIndex) (f : Watch → Watch) :
    (s.setLine l v).updateWatch i f = (s.updateWatch i f).setLine l v := by
  unfold State.updateWatch
  rw [State.setLine_entry]
  split <;> simp

@[simp] theorem State.raise_setLine (i : EntryIndex) (cs : CauseSet) :
    (s.setLine l v).raise i cs = (s.raise i cs).setLine l v := by
  unfold State.raise State.addCauses
  rw [State.setLine_entry]
  split <;> simp

@[simp] theorem State.countOverrun_setLine (i : EntryIndex) :
    (s.setLine l v).countOverrun i = (s.countOverrun i).setLine l v := by simp [State.countOverrun]

theorem State.submit_setLine (i : EntryIndex) (n : AnalogInput) (r : Fin 4) (d : Nat) :
    (s.setLine l v).submit i n r d = ((s.submit i n r d).1.setLine l v, (s.submit i n r d).2) := by
  unfold State.submit
  simp only [State.setLine_converter]
  split
  · simp
  · split <;> simp

theorem State.requestEngine_setLine (i : EntryIndex) (m : Measurement) (x : Nat) :
    (s.setLine l v).requestEngine i m x = (s.requestEngine i m x).setLine l v := by
  have hfree : (s.setLine l v).freeEngine = s.freeEngine := by simp [State.freeEngine]
  unfold State.requestEngine
  rw [hfree]
  split <;> cases l <;> rfl

theorem State.startByPolicy_setLine (i : EntryIndex) (w : Watch) :
    (s.setLine l v).startByPolicy i w = ((s.startByPolicy i w).1.setLine l v, (s.startByPolicy i w).2) := by
  unfold State.startByPolicy State.overrunStart
  split <;> simp

theorem State.startAny_setLine (i : EntryIndex) (w : Watch) :
    ((s.setLine l v).startAny i w).1 = (s.startAny i w).1.setLine l v := by
  unfold State.startAny State.startRequest State.startWork
  simp only [State.setLine_isHeld, State.setLine_entry, State.startByPolicy_setLine, State.submit_setLine,
    State.requestEngine_setLine]
  split
  · rfl
  · split
    · split
      · rename_i n r d _
        generalize s.submit i n r d = x
        obtain ⟨t, disposition⟩ := x
        cases disposition <;> simp [State.overrunStart]
      · rfl
    · rfl

theorem State.fanOutTo_setLine (k : TrgLine) (i : EntryIndex) :
    State.fanOutTo k (s.setLine l v) i = (State.fanOutTo k s i).setLine l v := by
  unfold State.fanOutTo
  rw [State.setLine_entry]
  split
  · split
    · exact State.startAny_setLine s l v i _
    · rfl
  · rfl

theorem State.foldl_fanOutTo_setLine (k : TrgLine) (is : List EntryIndex) :
    is.foldl (State.fanOutTo k) (s.setLine l v) = (is.foldl (State.fanOutTo k) s).setLine l v := by
  induction is generalizing s with
  | nil => rfl
  | cons i is ih => rw [List.foldl_cons, State.fanOutTo_setLine, ih, List.foldl_cons]

end

section
variable {s : State} {l : TrgLine} {i : EntryIndex} {w : Watch} {q : Port} {k n : Nat}

/-- A fan-out in two parts is the fan-out of both. -/
theorem State.fanOut_fanOut (s : State) (l : TrgLine) (k n m : Nat) :
    (s.fanOut l k n).fanOut l (k + n) m = s.fanOut l k (n + m) := by
  have hsplit : (allEntries.drop k).take (n + m) =
      (allEntries.drop k).take n ++ (allEntries.drop (k + n)).take m := by
    rw [List.take_add, List.drop_drop]
  have hline := fun is : List EntryIndex => State.line_eq_of_surroundings (State.surroundings_fanOutTo_foldl s l is) l
  simp only [State.fanOut, State.foldl_fanOutTo_setLine, State.setLine_setLine, State.line_setLine, if_true, hsplit,
    ← List.foldl_append, hline, Nat.add_assoc]

/-- The fan-out of one entry is, but for the line, that entry's start. -/
theorem State.fanOut_one (s : State) (l : TrgLine) (i : EntryIndex) :
    (s.fanOut l i.val 1).setLine l (s.line l) = State.fanOutTo l s i := by
  have hone : (allEntries.drop i.val).take 1 = [i] := by
    have hi : i.val < allEntries.length := by simp [allEntries]
    rw [List.drop_eq_getElem_cons hi, allEntries_get hi]
    rfl
  have hline := State.line_eq_of_surroundings (State.surroundings_fanOutTo s l i) l
  simp only [State.fanOut, hone, List.foldl_cons, List.foldl_nil, State.setLine_setLine]
  rw [← hline, State.setLine_self]

/-- An entry that the fan-out does not start stands, and with it its members. -/
theorem State.fanOut_shown_of_not_bound (h : ∀ w, ¬ (k ≤ i.val ∧ i.val < k + n ∧ s.BoundTo l i w)) (q : Port) :
    (s.fanOut l k n).shown q i = s.shown q i := by
  rw [State.fanOut_shown]
  obtain ⟨hout, hin⟩ := State.foldl_fanOutTo_shown (l := l) (q := q) (i := i) (examined_nodup k n) s
  by_cases hi : i ∈ (allEntries.drop k).take n
  · obtain ⟨u, hu, ht⟩ := hin hi
    obtain ⟨hk, hn⟩ := (mem_examined k n i).mp hi
    have hentry : u.entry i = s.entry i := congrArg Prod.fst hu
    rw [ht, State.fanOutTo_of_not_bound, hu]
    rintro w ⟨h1, h2, h3⟩
    rw [hentry] at h1 h2
    exact h w ⟨hk, hn, h1, h2, h3⟩
  · exact hout hi

/-- A bound entry is started as it stands before the fan-out. -/
theorem State.fanOut_shown_of_bound (hk : k ≤ i.val) (hn : i.val < k + n) (h : s.BoundTo l i w) (q : Port) :
    ∃ u : State, u.entry i = s.entry i ∧ u.isHeld = s.isHeld ∧ (u.attention q).causes[i] = (s.attention q).causes[i] ∧
      u.BoundTo l i w ∧ (s.fanOut l k n).shown q i = (State.fanOutTo l u i).shown q i := by
  obtain ⟨-, hin⟩ := State.foldl_fanOutTo_shown (l := l) (q := q) (i := i) (examined_nodup k n) s
  obtain ⟨u, hu, ht⟩ := hin ((mem_examined k n i).mpr ⟨hk, hn⟩)
  simp only [State.shown, Prod.mk.injEq] at hu
  obtain ⟨hentry, hheld, hcauses⟩ := hu
  refine ⟨u, hentry, hheld, hcauses, ?_, (State.fanOut_shown s l k n q i).trans ht⟩
  rwa [State.BoundTo, hentry]

theorem State.entry_of_shown {t : State} (h : t.shown q i = s.shown q i) : t.entry i = s.entry i := congrArg Prod.fst h

theorem State.causes_of_shown {t : State} (h : t.shown q i = s.shown q i) :
    (t.attention q).causes[i] = (s.attention q).causes[i] := congrArg (fun x => x.2.2) h

/-! ### Starts by policy -/

/-- A start taken by policy either sets the held trigger or counts an overrun. -/
theorem State.PolicyTaken.cases {t : State} {d : Disposition} (h : s.PolicyTaken i w t d) :
    ((w.defn.contract.policy = .hold ∧ w.dyn.heldTrigger = false) →
      t = s.withWatchAt i { w with dyn := { w.dyn with heldTrigger := true } }) ∧
    (¬ (w.defn.contract.policy = .hold ∧ w.dyn.heldTrigger = false) → t = s.afterOverrun i w) := by
  obtain ⟨hheld, hover⟩ := h
  refine ⟨fun hp => (hheld hp).1, fun hp => (hover ?_).1⟩
  cases hpol : w.defn.contract.policy
  · exact .inr (by simpa [hpol] using hp)
  · exact .inl rfl

theorem overrun_and_notify (c : CauseSet) : (0b00100 &&& c : CauseSet) = if c.getLsbD 2 = true then 0b00100 else 0 := by
  revert c
  decide

theorem State.afterOverrun_causes (s : State) (i : EntryIndex) (w : Watch) (q : Port) :
    ((s.afterOverrun i w).attention q).causes[i] =
      if w.defn.owner = q ∧ w.defn.contract.notify.getLsbD 2 = true then (s.attention q).causes[i] ||| 0b00100
      else (s.attention q).causes[i] := by
  by_cases hq : w.defn.owner = q
  · subst hq
    have hand := overrun_and_notify w.defn.contract.notify
    by_cases hn : w.defn.contract.notify.getLsbD 2 = true
    · rw [if_pos hn] at hand
      rw [if_pos ⟨rfl, hn⟩]
      simpa [State.afterOverrun, State.afterCauses, State.withWatchAt] using
        congrArg ((s.attention w.defn.owner).causes[i] ||| ·) hand
    · rw [if_neg hn] at hand
      rw [if_neg fun h => hn h.2]
      simpa [State.afterOverrun, State.afterCauses, State.withWatchAt] using
        congrArg ((s.attention w.defn.owner).causes[i] ||| ·) hand
  · simp [State.afterOverrun, State.afterCauses, State.withWatchAt, hq]

end

/-- Settles O42: every examined entry on its own, as it stands before the fan-out. -/
theorem fanOutStartsEveryBoundWatch : Obligations.FanOutStartsEveryBoundWatch := by
  intro s l k n t bound takesHeld overrun
  have hbound : ∀ i w, bound i w → k ≤ i.val ∧ i.val < k + n ∧ s.BoundTo l i w := fun i w hb => hb
  refine ⟨State.fanOut_line s l k n, fun i hno => ?_, fun i w hb hp => ?_, fun i w hb hheld ha => ?_, fun hheld => ?_,
    fun hheld i u hu => ?_, fun m => State.fanOut_fanOut s l k n m⟩
  · exact State.entry_of_shown (State.fanOut_shown_of_not_bound hno .a)
  · obtain ⟨hk, hn, hb⟩ := hbound i w hb
    obtain ⟨u, hentry, hu, -, hub, ht⟩ := State.fanOut_shown_of_bound hk hn hb .a
    obtain ⟨d, hpolicy⟩ := State.fanOutTo_policy hub (by rwa [hu, hentry])
    obtain ⟨hset, hover⟩ := hpolicy.cases
    rw [← hentry]
    refine ⟨fun hh => (State.entry_of_shown ht).trans ?_, fun hh => (State.entry_of_shown ht).trans ?_⟩
    · rw [hset hh]
      simp
    · rw [hover hh]
      exact State.afterOverrun_entry_self u i w
  · obtain ⟨hk, hn, hb⟩ := hbound i w hb
    obtain ⟨u, hentry, hu, -, hub, ht⟩ := State.fanOut_shown_of_bound hk hn hb .a
    have hstart := State.startRequest_entry_idle hub.2.1 (by rwa [hentry])
    rw [← State.fanOutTo_start hub (hu.trans hheld), ← State.entry_of_shown ht, hentry] at hstart
    exact hstart
  · refine ⟨?_, fun q i => ⟨?_, fun hno => ?_⟩⟩
    · have hrest := State.eq_of_beyondTable (State.beyondTable_foldl_fanOutTo (l := l) ((allEntries.drop k).take n) hheld)
      have hline := (congrArg (fun u => State.setLine u l (s.line l)) hrest).trans (State.setLine_self s l)
      cases l <;> exact hline
    · rintro ⟨w, hb, ho, htakes, hnotify⟩
      obtain ⟨hk, hn, hb⟩ := hbound i w hb
      obtain ⟨u, hentry, hu, hcauses, hub, ht⟩ := State.fanOut_shown_of_bound hk hn hb q
      obtain ⟨d, hpolicy⟩ := State.fanOutTo_policy hub (.inl (hu.trans hheld))
      rw [State.causes_of_shown ht, hpolicy.cases.2 htakes, State.afterOverrun_causes, if_pos ⟨ho, hnotify⟩, hcauses]
    · by_cases hb : ∃ w, bound i w
      · obtain ⟨w, hb⟩ := hb
        have hno := hno w hb
        obtain ⟨hk, hn, hb⟩ := hbound i w hb
        obtain ⟨u, hentry, hu, hcauses, hub, ht⟩ := State.fanOut_shown_of_bound hk hn hb q
        obtain ⟨d, hpolicy⟩ := State.fanOutTo_policy hub (.inl (hu.trans hheld))
        rw [State.causes_of_shown ht]
        by_cases hh : takesHeld w
        · rw [hpolicy.cases.1 hh]
          simpa [State.withWatchAt] using hcauses
        · rw [hpolicy.cases.2 hh, State.afterOverrun_causes, if_neg, hcauses]
          rintro ⟨ho, hnotify⟩
          rcases hno ho with h | h
          · exact hh h
          · rw [h] at hnotify
            cases hnotify
      · exact State.causes_of_shown (State.fanOut_shown_of_not_bound (not_exists.mp hb) q)
  · rw [hu, State.fanOut_one]
    refine ⟨fun w hs hw hl => ?_, fun hno => ?_⟩
    · rw [State.fanOutTo_start ⟨hs, hw, hl⟩ hheld]
      exact ⟨_, State.startRequest_spec hw⟩
    · exact State.fanOutTo_of_not_bound fun w ⟨hs, hw, hl⟩ => hno w hs hw hl

end Sys2Proof.Machine
end

section
/-! The timed events of the scheduler and of the converters, REFERENCE CHECK and the deliveries (R49 to R51, R83 to R100, R129). -/

namespace Sys2Proof.Machine

theorem State.microsUntil_eq (s : State) (t : DeviceTime) : s.microsUntil t = s.waitFor t := by
  unfold State.microsUntil State.waitFor reached
  simp only [decide_eq_true_eq]
  rfl

/-! ### INTERVAL_EXPIRY, BECOME_PAST_DUE, BECOME_LATE (R49 to R51) -/

section
variable {s : State} {m : DueMember} {w : Watch} {due : DeviceTime} {n : Nat}

theorem State.expiryLeft_of_head {rest : List DueMember} (hh : s.isHeld = false) (hl : s.dueList = m :: rest)
    (hw : (s.entry m.entry).watch = some w) (hd : w.dyn.due = some due) : s.expiryLeft = some (s.waitFor due) := by
  simp only [State.expiryLeft, hh, hl, hw, Option.bind_some, hd, Option.map_some, State.microsUntil_eq, Bool.false_eq_true,
    if_false]

theorem State.pastDueLeft_of_member (hh : s.isHeld = true) (hm : m.lateness = .onTime)
    (hw : (s.entry m.entry).watch = some w) (hd : w.dyn.due = some due) : s.pastDueLeft m = some (s.waitFor due) := by
  simp only [State.pastDueLeft, hh, hm, hw, Option.bind_some, hd, Option.map_some, State.microsUntil_eq, decide_true,
    Bool.and_true, if_true]

theorem State.lateLeft_of_member (hh : s.isHeld = true) (hm : m.lateness = .pastDue)
    (hw : (s.entry m.entry).watch = some w) (hn : w.defn.contract.start = .interval n) (hd : w.dyn.due = some due) :
    s.lateLeft m = some (s.waitFor (due + BitVec.ofNat 32 (n * 10))) := by
  simp only [State.lateLeft, hh, hm, hw, Option.bind_some, Watch.lateTime_eq_some.mpr ⟨n, due, hn, hd, rfl⟩, Option.map_some,
    State.microsUntil_eq, decide_true, Bool.and_true, if_true]

end

theorem exec_intervalExpiry (s : State) : exec .intervalExpiry s = execIntervalExpiry s := rfl

theorem exec_becomePastDue (i : EntryIndex) (s : State) : exec (.becomePastDue i) s = execBecomePastDue i s := rfl

theorem exec_becomeLate (i : EntryIndex) (s : State) : exec (.becomeLate i) s = execBecomeLate i s := rfl

/-- Settles O46: the head's expiry is the time left until its due time. -/
theorem intervalExpiryReschedulesAndStarts : Obligations.IntervalExpiryReschedulesAndStarts := by
  intro s m rest w n due hr hh hl ha hw hn hd hs
  refine ⟨_, ?_, State.expire_spec (s := s.elapse (s.waitFor due)) ha hw hn hd m.lateness⟩
  rw [exec_intervalExpiry, execIntervalExpiry, hr, State.expiryLeft_of_head hh hl hw hd, State.runTo_of_nothingSooner hs, hl]
  rfl

/-- Settles O47, by the member's status. -/
theorem heldMembersFallBehind : Obligations.HeldMembersFallBehind := by
  intro s m w due hr hh hm hw hd marked
  have hmember : s.memberOf m.entry = some m := hm
  refine ⟨fun hl hs => ?_, fun n hl hn hs => ?_⟩
  · rw [exec_becomePastDue, execBecomePastDue, hr, hmember, Option.bind_some, State.pastDueLeft_of_member hh hl hw hd,
      State.runTo_of_nothingSooner hs]
    rfl
  · rw [exec_becomeLate, execBecomeLate, hr, hmember, Option.bind_some, State.lateLeft_of_member hh hl hw hn hd,
      State.runTo_of_nothingSooner hs]
    rfl

/-! ### REFERENCE CHECK (R98, R183) -/

theorem exec_referenceCheck (p : Port) (tag : Byte) (s : State) :
    exec (.referenceCheck p tag) s = .next (s.command p tag 0 true (referenceCheckBody p)) := rfl

section
variable {s : State} {p : Port} {v : PortState}

theorem referenceCheckBody_busy (h : s.check.issuer ≠ none) :
    referenceCheckBody p (s.setPort p v) = (s.setPort p v, .refuse .checkBusy) := by
  rw [referenceCheckBody, State.setPort_check, if_pos (Option.isSome_iff_ne_none.mpr h)]

theorem referenceCheckBody_full (h : s.check.issuer = none) (hq : 8 ≤ s.conv0.queue.length ∨ 8 ≤ s.conv1.queue.length) :
    referenceCheckBody p (s.setPort p v) = (s.setPort p v, .refuse .queueFull) := by
  rw [referenceCheckBody, State.setPort_check, h, if_neg (by simp), if_pos]
  simpa [Config.queueCapacity] using hq

/-- An accepted REFERENCE CHECK waits for its converters (R183). -/
theorem referenceCheckBody_taken (h : s.check.issuer = none) (h0 : s.conv0.queue.length < 8) (h1 : s.conv1.queue.length < 8) :
    referenceCheckBody p (s.setPort p v) =
      ({ s with
          conv0 := { s.conv0 with queue := s.conv0.queue ++ [Request.check] }
          conv1 := { s.conv1 with queue := s.conv1.queue ++ [Request.check] }
          check := ⟨some p, none, none⟩ }.setPort p v, .later) := by
  rw [referenceCheckBody, State.setPort_check, h, if_neg (by simp), if_neg]
  · cases p <;> rfl
  · have hn : ¬ (8 ≤ s.conv0.queue.length ∨ 8 ≤ s.conv1.queue.length) := by omega
    simpa [Config.queueCapacity] using hn

end

/-- Settles O48, by the tests of `referenceCheckBody`. -/
theorem referenceCheckEntersBothQueues : Obligations.ReferenceCheckEntersBothQueues := by
  intro s p tag ha check
  have hx := exec_referenceCheck p tag s
  refine ⟨fun h => answers_refusal hx ha fun v => referenceCheckBody_busy h,
    fun h hq => answers_refusal hx ha fun v => referenceCheckBody_full h hq, fun h h0 h1 => ?_⟩
  obtain ⟨v, hv, hc⟩ := State.command_spec ha tag 0 (referenceCheckBody p)
  rw [referenceCheckBody_taken h h0 h1] at hc
  refine ⟨_, hx, ?_, ?_⟩ <;> rw [hc, State.reply]
  · simp [hv]
  · cases p <;> rfl

/-! ### WARMUP_EXPIRY, REQUEST_START, SETTLE_EXPIRY (R83 to R85) -/

theorem exec_warmupExpiry (c : ConverterId) (s : State) : exec (.warmupExpiry c) s = execWarmupExpiry c s := rfl

theorem exec_requestStart (c : ConverterId) (s : State) : exec (.requestStart c) s = execRequestStart c s := rfl

theorem exec_settleExpiry (c : ConverterId) (s : State) : exec (.settleExpiry c) s = execSettleExpiry c s := rfl

section
variable {s : State} {c : ConverterId}

theorem State.converterLeft_warmup (h : (s.converter c).state = .warmup) :
    s.converterLeft c = some (2000 - (s.now.toNat * 10 + s.micro.val)) := by
  simp only [State.converterLeft, h]
  rfl

theorem State.converterLeft_settling (h : (s.converter c).state = .settling) :
    s.converterLeft c = some (s.converter c).timer := by simp only [State.converterLeft, h]

theorem State.converterLeft_converting (h : (s.converter c).state = .converting) (hd : (s.converter c).delivering = none) :
    s.converterLeft c = some (s.converter c).timer := by
  simp only [State.converterLeft, h, hd]
  rfl

end

/-- Settles O49, by the converter's state. -/
theorem convertersTakeAndSettleRequests : Obligations.ConvertersTakeAndSettleRequests := by
  intro s c hr
  refine ⟨fun hst hs => ⟨_, ?_, State.takeNext_spec _ c⟩, fun hst => ⟨_, ?_, State.takeNext_spec s c⟩, fun hst hs => ?_⟩
  · rw [exec_warmupExpiry, execWarmupExpiry, if_neg (by simp [hr, hst]), State.converterLeft_warmup hst,
      State.runTo_of_nothingSooner hs]
  · rw [exec_requestStart, execRequestStart, hr, State.startIdle, if_pos hst]
    rfl
  · rw [exec_settleExpiry, execSettleExpiry, if_neg (by simp [hr, hst]), State.converterLeft_settling hst,
      State.runTo_of_nothingSooner hs]
    rfl

/-! ### CONVERSION_COMPLETION (R93, R94, R109) -/

theorem exec_conversionCompletion (c : ConverterId) (level : Int) (s : State) :
    exec (.conversionCompletion c level) s = execConversionCompletion c level s := rfl

theorem Converter.normalCurrent_of_current {v : Converter} {r : Request} {input : AnalogInput} (hst : v.state = .converting)
    (hd : v.delivering = none) (hc : v.current = some r) (hi : r.source = .ain input) : v.normalCurrent = some (r, input) := by
  simp only [Converter.normalCurrent, hst, hd, hc, hi, and_self, if_true]

theorem State.complete_of_subscribed {s : State} {c : ConverterId} {r : Request} (h : r.subscribers ≠ []) (input : AnalogInput)
    (level : Int) : s.complete c r input level = s.setConverter c { s.converter c with
      delivering := some (conversionOutcome (s.converter c).fault (s.correction input r.range) r.range
        (rawCode r.range level)) } := if_neg h

theorem clampCode_iff (raw : Nat) : clampCode raw = true ↔ raw = 0 ∨ raw = 4095 := by simp [clampCode]

theorem conversionOutcome_fault (k : Correction) (range : Fin 4) (raw : Nat) :
    conversionOutcome true k range raw = ⟨.fault, none⟩ := rfl

theorem conversionOutcome_clipped {k : Correction} {range : Fin 4} {raw : Nat}
    (h : raw = 0 ∨ raw = 4095 ∨ saturated k range raw = true) :
    conversionOutcome false k range raw = ⟨.clipped, some (correctedValue k range raw)⟩ := by
  rw [← or_assoc, ← clampCode_iff, ← Bool.or_eq_true] at h
  rw [conversionOutcome, h]
  rfl

theorem conversionOutcome_normal {k : Correction} {range : Fin 4} {raw : Nat}
    (h : ¬ (raw = 0 ∨ raw = 4095 ∨ saturated k range raw = true)) :
    conversionOutcome false k range raw = ⟨.normal, some (correctedValue k range raw)⟩ := by
  rw [← or_assoc, ← clampCode_iff, ← Bool.or_eq_true, Bool.not_eq_true] at h
  rw [conversionOutcome, h]
  rfl

/-- Settles O50, by the fault flag and the code. -/
theorem conversionCompletionFormsOneOutcome : Obligations.ConversionCompletionFormsOneOutcome := by
  intro s c level r input hr hst hd hc hi hsub hs u raw k clipped answers
  have hx : exec (.conversionCompletion c level) s = .next (u.setConverter c { u.converter c with
      delivering := some (conversionOutcome (s.converter c).fault k r.range raw) }) := by
    have hfault : (u.converter c).fault = (s.converter c).fault := by simp [u]
    rw [exec_conversionCompletion, execConversionCompletion, hr, Converter.normalCurrent_of_current hst hd hc hi,
      State.converterLeft_converting hst hd, State.runTo_of_nothingSooner hs, ← hfault]
    exact congrArg Host.Outcome.next (State.complete_of_subscribed hsub input level)
  refine ⟨fun hf => ?_, fun hf hclip => ?_, fun hf hclip => ?_⟩
  · rwa [hf, conversionOutcome_fault] at hx
  · rwa [hf, conversionOutcome_clipped hclip] at hx
  · rwa [hf, conversionOutcome_normal hclip] at hx

/-! ### CHECK_COMPLETION (R99, R100) -/

theorem exec_checkCompletion (c : ConverterId) (level : Int) (s : State) :
    exec (.checkCompletion c level) s = execCheckCompletion c level s := rfl

theorem Converter.checkCurrent_of_current {v : Converter} {r : Request} (hst : v.state = .converting) (hc : v.current = some r)
    (hi : r.source = .checkSource) : v.checkCurrent = true := by
  simp [Converter.checkCurrent, hst, hc, Request.isCheck, hi]

theorem State.check_of_surroundings {s t : State} (h : t.surroundings = s.surroundings) : t.check = s.check :=
  (congrArg State.check h :)

theorem State.endCheck_pending {s : State} (h : s.check.issuer = none ∨ s.check.result0 = none ∨ s.check.result1 = none) :
    s.endCheck = s := by
  unfold State.endCheck
  split
  · rfl
  · rename_i p hp
    refine if_neg fun hboth => ?_
    rcases h with h | h | h <;> simp_all

theorem State.answer_of_executing {s : State} {p : Port} {tag : Byte} {m : Bool} (h : (s.port p).window = .executing tag m)
    (status : Status) (data : List Byte) :
    s.answer p status data = s.setPort p { s.port p with window := .ready ⟨status, m, tag, data⟩ } := by
  simp only [State.answer, h, State.setWindow]

theorem checkResultBytes_some (r : CheckResult) :
    checkResultBytes (some r) = halfBytes (BitVec.ofNat 16 r.code) ++ [if r.pass = true then 0 else 1] := by
  cases hp : r.pass <;> simp [checkResultBytes, hp, flagByte]

theorem State.endCheck_complete {s : State} {p : Port} {r0 r1 : CheckResult} {tag : Byte} {m : Bool}
    (hp : s.check.issuer = some p) (h0 : s.check.result0 = some r0) (h1 : s.check.result1 = some r1)
    (hw : (s.port p).window = .executing tag m) :
    s.endCheck = { s with check := { s.check with issuer := none } }.setPort p { s.port p with
      window := .ready ⟨.ok, m, tag,
        halfBytes (BitVec.ofNat 16 r0.code) ++ [if r0.pass = true then 0 else 1] ++
        halfBytes (BitVec.ofNat 16 r1.code) ++ [if r1.pass = true then 0 else 1]⟩ } := by
  have hport : ({ s with check := { s.check with issuer := none } } : State).port p = s.port p := by cases p <;> rfl
  have hanswer := State.answer_of_executing (s := { s with check := { s.check with issuer := none } }) (p := p)
    (by rw [hport, hw]) .ok (checkResultBytes (some r0) ++ checkResultBytes (some r1))
  have hend : s.endCheck = ({ s with check := { s.check with issuer := none } } : State).answer p .ok
      (checkResultBytes (some r0) ++ checkResultBytes (some r1)) := by
    rw [State.endCheck, hp, h0, h1]
    rfl
  rw [hend, hanswer, hport, checkResultBytes_some, checkResultBytes_some, ← List.append_assoc]

/-- Settles O51: the result is written, the converter goes on, and the check ends where both results stand. -/
theorem checkCompletionRecordsAndAnswers : Obligations.CheckCompletionRecordsAndAnswers := by
  intro s c level r hr hst hd hc hi hs u code pass check written
  have hcheck : (written.takeNext c).check = check := State.check_of_surroundings (State.surroundings_takeNext written c)
  have hwritten : ∀ p, (written.port p).window = (s.port p).window := by
    intro p
    have hport : written.port p = u.port p := by cases c <;> cases p <;> rfl
    rw [hport, State.elapse_window]
  refine ⟨written.takeNext c, (written.takeNext c).endCheck, State.takeNext_spec written c, ?_, fun h => ?_,
    fun p r0 r1 tag m hp h0 h1 hw => ?_⟩
  · rw [exec_checkCompletion, execCheckCompletion, if_neg (by simp [hr, Converter.checkCurrent_of_current hst hc hi]),
      State.converterLeft_converting hst hd, State.runTo_of_nothingSooner hs]
    have hpass : checkPasses code = pass := by simp [checkPasses, pass]
    show Host.Outcome.next (State.completeCheck u c code) = _
    rw [State.completeCheck, hpass]
    cases c <;> rfl
  · exact State.endCheck_pending (by rwa [hcheck])
  · rw [State.endCheck_complete (by rwa [hcheck]) (by rwa [hcheck]) (by rwa [hcheck])
      (by rwa [State.port_eq_of_surroundings (State.surroundings_takeNext written c), hwritten]), hcheck]

/-! ### DELIVERY (R95, R129, R130) -/

theorem exec_delivery {s : State} (hr : s.resetAsserted = false) (source : DeliverySource) :
    exec (.delivery source) s = .next (s.takeDelivery source) := by
  show Host.Outcome.next (if s.resetAsserted then s else s.takeDelivery source) = _
  rw [hr]
  rfl

theorem State.takeDelivery_converter {s : State} {c : ConverterId} {i : EntryIndex} {r : Request} {o : Delivered}
    (hc : (s.converter c).current = some r) (hd : (s.converter c).delivering = some o) (hi : i ∈ r.subscribers) :
    s.takeDelivery (.converter c i) =
      let rest := r.subscribers.filter fun j => decide (j ≠ i)
      let u := (s.setConverter c { s.converter c with current := some { r with subscribers := rest } }).deliver i o
      if rest = [] then u.takeNext c else u := by
  simp only [State.takeDelivery, State.deliverFromConverter, hc, hd, hi, if_true]

theorem State.takeDelivery_engine {s : State} {e : EngineIndex} {i : EntryIndex} {o : Delivered}
    (hst : (s.engine e).state = .reserved) (hi : (s.engine e).holder = some i) (ho : (s.engine e).outcome = some o) :
    s.takeDelivery (.engine e) = (s.deliver i o).releaseEngine e := by
  simp only [State.takeDelivery, State.deliverFromEngine, hst, hi, ho]

/-- Settles O52, by the source; what the entry makes of the outcome is `State.deliver`. -/
theorem deliveriesReachTheirEntries : Obligations.DeliveriesReachTheirEntries := by
  refine ⟨fun s c i w r o hr hc hd hi hw hst => ?_, fun s e i w o hr hst hi ho hw _ => ?_⟩
  · intro rest s'
    refine ⟨s'.deliver i o, _, State.deliver_spec (by simpa [s'] using hw) o, exec_delivery hr _, fun hrest => ?_,
      fun hrest => ?_⟩ <;> rw [State.takeDelivery_converter hc hd hi]
    · exact if_neg hrest
    · dsimp only
      rw [if_pos hrest]
      exact State.takeNext_spec _ c
  · refine ⟨s.deliver i o, _, State.deliver_spec hw o, exec_delivery hr _, ?_⟩
    rw [State.takeDelivery_engine hst hi ho]
    exact State.releaseEngine_spec _ e

end Sys2Proof.Machine
end

section
/-! Steps 1 to 4 of a delivery to an ARMED watch (R140 to R148). -/

namespace Sys2Proof.Machine

/-- The watch after the outcome has been recorded and a pending swap taken (R141, R143). -/
def Watch.swapped (w : Watch) (o : Delivered) (now : DeviceTime) : Watch :=
  if w.dyn.swapPending = true then
    { defn := { w.defn with active := if w.defn.active = .a then .b else .a }
      dyn := { (w.recorded o now).dyn with swapPending := false, candidate := none } }
  else w.recorded o now

/-- The causes that these two steps raise. -/
def Watch.swapCauses (w : Watch) : CauseSet := (if w.dyn.swapPending = true then 0b10000 else 0) ||| 0b00001

theorem Watch.takeSwap_record (w : Watch) (o : Delivered) (now : DeviceTime) :
    (w.record o now).takeSwap = (w.swapped o now, if w.dyn.swapPending = true then 0b10000 else 0) := by
  have hp : (w.recorded o now).dyn.swapPending = w.dyn.swapPending := rfl
  rw [Watch.record_eq, Watch.takeSwap, Watch.swapped, hp]
  cases hs : w.dyn.swapPending
  · rfl
  · rw [Watch.toggleBanks, BankId.other_eq]
    rfl

/-- What a delivery leaves is the judgement on the watch after its first steps. -/
theorem Watch.deliver_of_judge {w v : Watch} {o : Delivered} {now : DeviceTime} {cs : CauseSet}
    (h : (w.swapped o now).judge o = (v, cs)) : w.deliver o now = (v, w.swapCauses ||| cs) := by
  rw [Watch.deliver, Watch.takeSwap_record]
  dsimp only
  rw [h]
  rfl

theorem Watch.swapped_qualify (w : Watch) (o : Delivered) (now : DeviceTime) :
    (w.swapped o now).defn.contract.qualify = w.defn.contract.qualify := by
  unfold Watch.swapped
  split <;> rfl

theorem supportCount_eq (k : Option Candidate) (x : SignalClass) :
    supportCount k x = match k with
      | some k => if k.proposed = x then k.count + 1 else 1
      | none => 1 := by cases k <;> rfl

theorem Watch.judge_of_absent {w : Watch} {o : Delivered} {v : Int} (ho : o.value = some v) (hbank : w.defn.activeBank = none) :
    w.judge o = (w, 0) := by simp only [Watch.judge, ho, hbank]

/-- Settles O53: the judgement of the recorded and swapped watch, by the outcome and the target class. -/
theorem armedDeliveryRecordsSwapsAndJudges : Obligations.ArmedDeliveryRecordsSwapsAndJudges := by
  intro w o now recorded swapped bank causes candidate support leaves
  have hbank : (w.swapped o now).defn.activeBank = bank := Definition.activeBank_eq _
  have hsupport : ∀ x, supportCount (w.swapped o now).dyn.candidate x = support x := supportCount_eq candidate
  have hqualify := Watch.swapped_qualify w o now
  refine ⟨fun ho => Watch.deliver_of_judge (Watch.judge_of_fault _ ho),
    fun v ho hb => Watch.deliver_of_judge (Watch.judge_of_absent ho (hbank.trans hb)), fun v k x ho hb ht => ?_⟩
  have hjudge : (w.swapped o now).judge o = (w.swapped o now).qualifyTo x :=
    Watch.judge_of_proposes (hbank.trans hb) ⟨v, ho, ht⟩
  refine ⟨fun hx => ?_, fun hx hs => ?_, fun hx hs => ?_⟩
  · exact Watch.deliver_of_judge (hjudge.trans (Watch.qualifyTo_of_current hx))
  · exact Watch.deliver_of_judge (hjudge.trans (Watch.qualifyTo_of_support_eq hx
      ((hsupport x).trans (hs.trans hqualify.symm))))
  · have hne : supportCount (w.swapped o now).dyn.candidate x ≠ (w.swapped o now).defn.contract.qualify := by
      rwa [hsupport, hqualify]
    rw [← hsupport x]
    exact Watch.deliver_of_judge (hjudge.trans (Watch.qualifyTo_of_support_ne hx hne))

end Sys2Proof.Machine
end

section
/-! Request frames (R167, R177 to R179): a command's frame reads back as that command. -/

namespace Sys2Proof.Machine

/-! ### Blocks read back -/

theorem bankAt_bankBlockBytes (b : BankBlock) : bankAt (bankBlockBytes b) 0 = b := by
  have hl : wordAt (bankBlockBytes b) 1 = b.low := wordAt_wordBytes b.low
  have hh : wordAt (bankBlockBytes b) 5 = b.high := wordAt_wordBytes b.high
  have hy : wordAt (bankBlockBytes b) 9 = b.hysteresis := wordAt_wordBytes b.hysteresis
  simp only [bankAt, Nat.zero_add, hl, hh, hy]
  rfl

theorem blockAt_defBlockBytes (b : DefBlock) : blockAt (defBlockBytes b) 0 = b := by
  have hi : halfAt (defBlockBytes b) 8 = b.interval := halfBytes_joined b.interval
  have hg : halfAt (defBlockBytes b) 10 = b.gateOrLimit := halfBytes_joined b.gateOrLimit
  have hb : bankAt (defBlockBytes b) 14 = b.bankA := bankAt_bankBlockBytes b.bankA
  simp only [blockAt, Nat.zero_add, hi, hg, hb]
  rfl

theorem blockAt_append (x y : Byte) (bs : List Byte) : blockAt ([x, y] ++ bs) 2 = blockAt bs 0 := rfl

theorem bankAt_append (x y : Byte) (bs : List Byte) : bankAt ([x, y] ++ bs) 2 = bankAt bs 0 := rfl

/-! ### Commands read back (R177) -/

section
variable {i : Instr} {p : Port} {tag code : Byte} {ps : List Byte} (hc : commandParts i = some (p, tag, code, ps))
include hc

theorem commandLength_of_parts : commandLength code = some ps.length := by
  cases i <;> simp only [commandParts, Option.some.injEq, Prod.mk.injEq, reduceCtorEq] at hc <;>
    obtain ⟨rfl, rfl, rfl, rfl⟩ := hc <;> rfl

/-- The parameter bytes make the command they came from, with nothing between the claims of the longer two. -/
theorem decodeCommand_of_parts : decodeCommand p tag code ps = some i.asSent := by
  cases i <;> simp only [commandParts, Option.some.injEq, Prod.mk.injEq, reduceCtorEq] at hc <;>
    obtain ⟨rfl, rfl, rfl, rfl⟩ := hc
  case createWatch p tag b => exact congrArg (fun b => some (Instr.createWatch p tag b)) (blockAt_defBlockBytes b)
  case modifyWatch p tag h b =>
    exact congrArg (fun b => some (Instr.modifyWatch p tag h b)) ((blockAt_append _ _ _).trans (blockAt_defBlockBytes b))
  case writeBank p tag h b =>
    exact congrArg (fun b => some (Instr.writeBank p tag h b)) ((bankAt_append _ _ _).trans (bankAt_bankBlockBytes b))
  case arm p tag h d => exact congrArg (fun d => some (Instr.arm p tag h d)) (halfBytes_joined d)
  case setCorrection p tag n r g o =>
    exact (congrArg (fun g => some (Instr.setCorrection p tag n r g (o.extractLsb' 8 8 ++ o.extractLsb' 0 8)))
      (halfBytes_joined g)).trans (congrArg (fun o => some (Instr.setCorrection p tag n r g o)) (halfBytes_joined o))
  all_goals rfl

end

theorem commandLength_le {code : Byte} {n : Nat} (h : commandLength code = some n) : n ≤ 30 := by
  unfold commandLength at h
  split at h <;> simp_all <;> omega

/-! ### Frames (R167) -/

theorem byteSum_concat (bs : List Byte) (x : Byte) : byteSum (bs ++ [x]) = byteSum bs + x := by
  simp [byteSum]

theorem makeFrame_eq (tag code : Byte) (ps : List Byte) : ∃ check,
    makeFrame tag code ps = [code, tag, BitVec.ofNat 8 ps.length] ++ ps ++ [check] ∧
      byteSum ([code, tag, BitVec.ofNat 8 ps.length] ++ ps ++ [check]) = 0 := by
  refine ⟨_, rfl, ?_⟩
  rw [byteSum_concat]
  exact BitVec.add_right_neg _

theorem toNat_lengthByte {n : Nat} (h : n ≤ 40) : (BitVec.ofNat 8 n).toNat = n := by
  rw [BitVec.toNat_ofNat]
  omega

/-- A frame in order, of the length of its code, spells the command that its parameters make. -/
theorem decodeFrame_of_layout {p : Port} {tag code check : Byte} {ps : List Byte} {i : Instr}
    (hsum : byteSum ([code, tag, BitVec.ofNat 8 ps.length] ++ ps ++ [check]) = 0)
    (hlen : commandLength code = some ps.length) (hi : decodeCommand p tag code ps = some i) :
    decodeFrame p ([code, tag, BitVec.ofNat 8 ps.length] ++ ps ++ [check]) = .command i := by
  have hle := commandLength_le hlen
  have hn : (byteAt ([code, tag, BitVec.ofNat 8 ps.length] ++ ps ++ [check]) 2).toNat = ps.length :=
    toNat_lengthByte (by omega)
  have hps : (([code, tag, BitVec.ofNat 8 ps.length] ++ ps ++ [check]).drop 3).take ps.length = ps := by simp
  have hcode : byteAt ([code, tag, BitVec.ofNat 8 ps.length] ++ ps ++ [check]) 0 = code := rfl
  have htag : byteAt ([code, tag, BitVec.ofNat 8 ps.length] ++ ps ++ [check]) 1 = tag := rfl
  have hgood : ¬ (byteSum ([code, tag, BitVec.ofNat 8 ps.length] ++ ps ++ [check]) ≠ 0 ∨
      Config.maxParameters < ps.length) := by
    rintro (h | h)
    · exact h hsum
    · exact absurd h (by unfold Config.maxParameters; omega)
  simp only [decodeFrame, hn, hps, hcode, htag, if_neg hgood, hlen, hi, ne_eq, not_true_eq_false, if_false]

/-- The frame of a port command is laid out as R167 says and spells that command. -/
theorem frame_of_parts {i : Instr} {p : Port} {tag code : Byte} {ps : List Byte}
    (hc : commandParts i = some (p, tag, code, ps)) : ∃ check,
    encodeFrame i = some ([code, tag, BitVec.ofNat 8 ps.length] ++ ps ++ [check]) ∧
      byteSum ([code, tag, BitVec.ofNat 8 ps.length] ++ ps ++ [check]) = 0 ∧
      commandLength code = some ps.length ∧
      decodeFrame p ([code, tag, BitVec.ofNat 8 ps.length] ++ ps ++ [check]) = .command i.asSent := by
  obtain ⟨check, hframe, hsum⟩ := makeFrame_eq tag code ps
  have hlen := commandLength_of_parts hc
  refine ⟨check, ?_, hsum, hlen, decodeFrame_of_layout hsum hlen (decodeCommand_of_parts hc)⟩
  rw [encodeFrame, hc, ← hframe]

/-- Settles O9, from `commandParts` row by row and `frame_of_parts`. -/
theorem framesReadBackAsTheirCommands : Obligations.FramesReadBackAsTheirCommands := by
  intro i p tag code ps hc
  refine ⟨?_, frame_of_parts hc, ?_⟩
  · cases i <;> simp only [commandParts, Option.some.injEq, Prod.mk.injEq, reduceCtorEq] at hc <;>
      obtain ⟨rfl, rfl, rfl, rfl⟩ := hc <;> exact ⟨rfl, rfl⟩
  · cases i <;> rfl

end Sys2Proof.Machine
end

section
/-! Request writes (R167, R168, R170, R171, R173, R174): a frame that comes whole or in pieces, and what the port makes of it. -/

namespace Sys2Proof.Machine

/-! ### Transactions as what they leave of the port -/

theorem exec_requestFrame_open {s : State} (hr : s.resetAsserted = false) (p : Port) (b : Byte) (bytes : List Byte) :
    exec (.requestFrame p (some b) bytes) s = s.openTransaction p b bytes := by
  show execRequestFrame p (some b) bytes s = _
  rw [execRequestFrame, hr]
  rfl

theorem exec_requestFrame_more {s : State} (hr : s.resetAsserted = false) (p : Port) {bytes : List Byte} (hb : bytes ≠ []) :
    exec (.requestFrame p none bytes) s = s.continueTransaction p bytes := by
  show execRequestFrame p none bytes s = _
  unfold execRequestFrame
  rw [hr]
  obtain ⟨b, bs, rfl⟩ := List.exists_cons_of_ne_nil hb
  rfl

theorem exec_requestFrame_edge {s : State} (hr : s.resetAsserted = false) (p : Port) :
    exec (.requestFrame p none []) s = .next (s.clockEdge p) := by
  show execRequestFrame p none [] s = _
  rw [execRequestFrame, hr]
  rfl

theorem exec_partialFrameDiscard {s : State} (hr : s.resetAsserted = false) (p : Port) :
    exec (.partialFrameDiscard p) s = .next (s.endTransaction p) := by
  show Host.Outcome.next (if s.resetAsserted then s else s.endTransaction p) = _
  rw [hr]
  rfl

theorem State.startTransaction_eq (s : State) (p : Port) : s.startTransaction p =
    s.setPort p { s.port p with window := (s.port p).windowAtEnd, bus := .none, scl := sclAfterByte p, stall := 0 } := by
  simp [State.startTransaction, State.clockByte, State.endTransaction]

/-- A partial frame does not outlive its transaction (R167). -/
theorem PortState.windowAtEnd_ne_receiving (v : PortState) (held : List Byte) : v.windowAtEnd ≠ .receiving held := by
  unfold PortState.windowAtEnd CommandWindow.discardPartial
  split
  · split <;> nofun
  · split
    · nofun
    · rename_i h
      exact fun hw => h held hw

theorem PortState.windowAtEnd_of_executing {v : PortState} {tag : Byte} {m : Bool} (h : v.window = .executing tag m) :
    v.windowAtEnd = .executing tag m := by
  unfold PortState.windowAtEnd
  rw [h]
  split
  · contradiction
  · rfl

theorem State.windowAtEnd_of_accepts {s : State} {p : Port} (ha : s.accepts p = true) :
    (s.port p).windowAtEnd.isExecuting = false := by
  simp only [State.accepts, Bool.and_eq_true, Bool.not_eq_true'] at ha
  rw [PortState.windowAtEnd_isExecuting, ha.2]

/-- The port once a request write has been opened, before its first byte. -/
def PortState.opened (v : PortState) (p : Port) : PortState :=
  { v with window := v.windowAtEnd, bus := .opened, scl := sclAfterByte p, stall := 0 }

theorem State.openTransaction_write (s : State) (p : Port) (bytes : List Byte) :
    s.openTransaction p (s.writeOpening p) bytes =
      match (s.setPort p ((s.port p).opened p)).feed p bytes with
      | .next s' => .next (s'.driveMore p [] (bytes.length + 1) true)
      | o => o := by
  rw [State.openTransaction, if_pos rfl, State.startTransaction_eq, State.setBus, State.port_setPort, if_pos rfl,
    State.setPort_setPort]
  rfl

/-! ### A command finds of its port only whether it is EXECUTING -/

/-- A command on a port that takes it: handed to its block with the window EXECUTING, or refused at the port. -/
theorem State.command_of_not_executing {s : State} {p : Port} (hr : s.resetAsserted = false)
    (hs : (s.port p).windowAtEnd.isExecuting = false) (tag : Byte) (len : Nat) (valid : Bool)
    (body : State → State × Reply) :
    s.command p tag len valid body =
      let port := fun w : CommandWindow => s.setPort p ⟨w, .none, writeDrive p (len + 5), true, .high, 0⟩
      if valid then (body (port (.executing tag false))).1.reply p (body (port (.executing tag false))).2
      else port (.ready ⟨.badParameter, false, tag, []⟩) := by
  simp only [State.command, hr, Bool.false_eq_true, if_false, State.endTransaction, State.drive, State.setWindow,
    State.port_setPort, State.setPort_setPort, if_true]
  cases hw : (s.port p).windowAtEnd <;> simp [hw, CommandWindow.isExecuting] at hs ⊢

theorem State.command_setPort {s : State} {p : Port} {v : PortState} (hr : s.resetAsserted = false)
    (hs : (s.port p).windowAtEnd.isExecuting = false) (hv : v.windowAtEnd.isExecuting = false) (tag : Byte) (len : Nat)
    (valid : Bool) (body : State → State × Reply) :
    (s.setPort p v).command p tag len valid body = s.command p tag len valid body := by
  rw [State.command_of_not_executing hr hs, State.command_of_not_executing (by simpa using hr) (by simpa using hv)]
  simp only [State.setPort_setPort]

/-- What a frame spells is a command of the port that received it. -/
theorem runCommand_of_decodeCommand {p : Port} {tag code : Byte} {ps : List Byte} {i : Instr}
    (h : decodeCommand p tag code ps = some i) :
    ∃ len valid body, ∀ s, runCommand i s = .next (s.command p tag len valid body) := by
  unfold decodeCommand at h
  split at h <;> simp only [Option.some.injEq, reduceCtorEq] at h <;> subst h <;> exact ⟨_, _, _, fun s => rfl⟩

theorem runCommand_of_decodeFrame {p : Port} {frame : List Byte} {i : Instr} (h : decodeFrame p frame = .command i) :
    ∃ tag len valid body, ∀ s, runCommand i s = .next (s.command p tag len valid body) := by
  unfold decodeFrame at h
  dsimp only at h
  split at h
  · cases h
  · split at h
    · cases h
    · split at h
      · cases h
      · split at h
        · cases h
        · rename_i j hj
          cases h
          exact ⟨_, runCommand_of_decodeCommand hj⟩

/-- A row that a frame spells is run as the row itself, which has nothing between its claims. -/
theorem runCommand_asSent {i : Instr} {p : Port} {tag code : Byte} {ps : List Byte}
    (hc : commandParts i = some (p, tag, code, ps)) (s : State) : runCommand i.asSent s = exec i.asSent s := by
  cases i <;> simp only [commandParts, reduceCtorEq] at hc <;> rfl

end Sys2Proof.Machine
end

section
/-! Request writes (R167 to R171): frames that run their command, frames that the port answers, and frames in pieces. -/

namespace Sys2Proof.Machine

/-! ### Bytes reach a window that takes them -/

section
variable {s : State} {p : Port} {v : PortState} {held bytes : List Byte}

theorem State.receiveBytes_partial (h : ∀ n, frameLength (held ++ bytes) = some n → (held ++ bytes).length < n) :
    s.receiveBytes p held bytes = .next (s.setWindow p (.receiving (held ++ bytes))) := by
  unfold State.receiveBytes
  dsimp only
  split
  · rfl
  · rename_i n hn
    exact if_neg (Nat.not_le.mpr (h n hn))

theorem State.receiveBytes_complete {n : Nat} (hn : frameLength (held ++ bytes) = some n)
    (hl : n ≤ (held ++ bytes).length) : s.receiveBytes p held bytes = s.judgeFrame p ((held ++ bytes).take n) := by
  simp only [State.receiveBytes, hn, if_pos hl]

/-- The first bytes of a request write on a window that is not EXECUTING begin a frame (R167, R171). -/
theorem State.feed_opened (hw : v.window.isExecuting = false) (hb : v.bus = .opened) (hbytes : bytes ≠ []) :
    (s.setPort p v).feed p bytes = (s.setPort p { v with bus := .receiving }).receiveBytes p [] bytes := by
  obtain ⟨b, bs, rfl⟩ := List.exists_cons_of_ne_nil hbytes
  unfold State.feed
  simp only [State.port_setPort, if_true, hb, State.setBus, State.setPort_setPort]
  cases hv : v.window with
  | executing => simp [hv, CommandWindow.isExecuting] at hw
  | idle | receiving | ready => rfl

end

/-- The port while a request write's bytes go to its window, which is `w` before the frame's first byte. -/
def PortState.taking (v : PortState) (p : Port) : PortState :=
  { v with window := v.windowAtEnd, bus := .receiving, scl := sclAfterByte p, stall := 0 }

/-- A request write of bytes that a window takes is received from its first byte on. -/
theorem exec_requestFrame_write {s : State} {p : Port} {bytes : List Byte} (ha : s.accepts p = true) (hb : bytes ≠ []) :
    exec (.requestFrame p (some (s.writeOpening p)) bytes) s =
      match (s.setPort p ((s.port p).taking p)).receiveBytes p [] bytes with
      | .next s' => .next (s'.driveMore p [] (bytes.length + 1) true)
      | o => o := by
  rw [exec_requestFrame_open (State.resetAsserted_of_accepts ha), State.openTransaction_write,
    State.feed_opened (State.windowAtEnd_of_accepts ha) rfl hb]
  rfl

/-! ### RequestFrame runs its command -/

theorem frameLength_layout {code tag check : Byte} {ps extra : List Byte} (h : ps.length ≤ 40) :
    frameLength ([code, tag, BitVec.ofNat 8 ps.length] ++ ps ++ [check] ++ extra) = some (ps.length + 4) := by
  show some (4 + (BitVec.ofNat 8 ps.length).toNat) = _
  rw [toNat_lengthByte h, Nat.add_comm]

theorem take_layout {code tag check : Byte} {ps extra : List Byte} :
    ([code, tag, BitVec.ofNat 8 ps.length] ++ ps ++ [check] ++ extra).take (ps.length + 4) =
      [code, tag, BitVec.ofNat 8 ps.length] ++ ps ++ [check] :=
  List.take_left' (by simp)

theorem State.setPort_driveMore (s : State) (p : Port) (before : List Byte) (n : Nat) (taken : Bool) (v : PortState) :
    (s.driveMore p before n taken).setPort p v = s.setPort p v := by simp [State.driveMore, State.drive]

theorem State.window_driveMore (s : State) (p : Port) (before : List Byte) (n : Nat) (taken : Bool) :
    ((s.driveMore p before n taken).port p).window = (s.port p).window := by simp [State.driveMore, State.drive]

/-- A request write of a command's frame leaves what the command does, and the write's own traces at the port: the frame is
complete at its last byte, spells the command, and a command finds of its port only that it is not EXECUTING. -/
theorem exec_requestFrame_of_frame {i : Instr} {p : Port} {tag code : Byte} {ps frame : List Byte} {s t : State}
    (hc : commandParts i = some (p, tag, code, ps)) (hf : encodeFrame i = some frame) (ha : s.accepts p = true)
    (ht : exec i.asSent s = .next t) (extra : List Byte) :
    exec (.requestFrame p (some (s.writeOpening p)) (frame ++ extra)) s =
      .next (((t.setBus p .ignoring).clockByte p).driveMore p [] ((frame ++ extra).length + 1) true) := by
  have hr := State.resetAsserted_of_accepts ha
  obtain ⟨check, hframe, -, hlen, hdecode⟩ := frame_of_parts hc
  obtain rfl : frame = [code, tag, BitVec.ofNat 8 ps.length] ++ ps ++ [check] := Option.some.inj (hf.symm.trans hframe)
  have hps : ps.length ≤ 40 := (commandLength_le hlen).trans (by decide)
  obtain ⟨tag', len, valid, body, hrun⟩ := runCommand_of_decodeFrame hdecode
  have hsame : runCommand i.asSent (s.setPort p ((s.port p).taking p)) = .next t := by
    have htaking : ((s.port p).taking p).windowAtEnd.isExecuting = false :=
      (PortState.windowAtEnd_isExecuting _).trans (State.windowAtEnd_of_accepts ha)
    rw [hrun, State.command_setPort hr (State.windowAtEnd_of_accepts ha) htaking, ← hrun, runCommand_asSent hc, ht]
  have hreceive : (s.setPort p ((s.port p).taking p)).receiveBytes p []
      ([code, tag, BitVec.ofNat 8 ps.length] ++ ps ++ [check] ++ extra) = .next ((t.setBus p .ignoring).clockByte p) := by
    refine (State.receiveBytes_complete (held := [])
      (bytes := [code, tag, BitVec.ofNat 8 ps.length] ++ ps ++ [check] ++ extra) (frameLength_layout hps) (by simp)).trans ?_
    rw [List.nil_append, take_layout, State.judgeFrame, hdecode]
    dsimp only
    rw [hsame]
  exact (exec_requestFrame_write ha (by simp)).trans (by rw [hreceive])

/-- Settles O10. -/
theorem requestFrameRunsItsCommand : Obligations.RequestFrameRunsItsCommand := by
  intro i p tag code ps frame extra s t hc hf ha ht
  refine ⟨_, exec_requestFrame_of_frame hc hf ha ht extra, ?_, ?_⟩
  · rw [State.window_driveMore]
    simp [State.clockByte, State.setBus]
  · rw [State.setPort_driveMore]
    simp [State.clockByte, State.setBus]

/-! ### Frames that the port answers (R167, R168) -/

theorem decodeFrame_broken {p : Port} {frame : List Byte} (h : byteSum frame ≠ 0 ∨ 40 < (byteAt frame 2).toNat) :
    decodeFrame p frame = .frameError := if_pos h

theorem decodeFrame_unknown {p : Port} {frame : List Byte} (h : ¬ (byteSum frame ≠ 0 ∨ 40 < (byteAt frame 2).toNat))
    (hc : commandLength (byteAt frame 0) = none) : decodeFrame p frame = .unknownCommand := by
  have h' : ¬ (byteSum frame ≠ 0 ∨ Config.maxParameters < (byteAt frame 2).toNat) := h
  simp only [decodeFrame, if_neg h', hc]

theorem decodeFrame_length {p : Port} {frame : List Byte} {n : Nat}
    (h : ¬ (byteSum frame ≠ 0 ∨ 40 < (byteAt frame 2).toNat)) (hc : commandLength (byteAt frame 0) = some n)
    (hn : (byteAt frame 2).toNat ≠ n) : decodeFrame p frame = .badLength := by
  have h' : ¬ (byteSum frame ≠ 0 ∨ Config.maxParameters < (byteAt frame 2).toNat) := h
  simp only [decodeFrame, if_neg h', hc, if_pos hn]

/-- Settles O11: what `decodeFrame` makes of the frame. -/
theorem badFramesAreAnsweredAtThePort : Obligations.BadFramesAreAnsweredAtThePort := by
  intro s p frame status broken code ha hlen hbad
  have hjudge : (s.setPort p ((s.port p).taking p)).judgeFrame p frame =
      .next ((s.setPort p ((s.port p).taking p)).answerFrame p frame status) := by
    unfold State.judgeFrame
    obtain ⟨hb, rfl⟩ | ⟨hb, hc, rfl⟩ | ⟨hb, ⟨n, hc, hn⟩, rfl⟩ := hbad
    · rw [decodeFrame_broken hb]
    · rw [decodeFrame_unknown hb hc]
    · rw [decodeFrame_length hb hc hn]
  have hne : frame ≠ [] := by
    rintro rfl
    cases hlen
  have hreceive : (s.setPort p ((s.port p).taking p)).receiveBytes p [] frame =
      .next ((s.setPort p ((s.port p).taking p)).answerFrame p frame status) := by
    rw [State.receiveBytes_complete (held := []) hlen le_rfl, List.nil_append, List.take_length, hjudge]
  refine ⟨_, (exec_requestFrame_write ha hne).trans (by rw [hreceive]), ?_, ?_⟩
  · rw [State.window_driveMore]
    simp [State.answerFrame, State.setBus, State.setWindow]
  · rw [State.setPort_driveMore]
    simp [State.answerFrame, State.setBus, State.setWindow]

end Sys2Proof.Machine
end

section
/-! Frames in pieces (R167, R175) and writes that collide (R170). -/

namespace Sys2Proof.Machine

theorem writeDrive_append (p : Port) (m n : Nat) : writeDrive p m ++ writeDrive p n = writeDrive p (m + n) := by
  cases p
  · exact List.replicate_append_replicate
  · rfl

/-- The bytes of a frame are received as one, whatever the port has driven and whatever its window held before. -/
theorem State.receiveBytes_congr {s : State} {p : Port} {v v' : PortState} {held bytes held' bytes' : List Byte}
    (hr : s.resetAsserted = false) (hv : v.window.isExecuting = false) (hv' : v'.window.isExecuting = false)
    (hbus : v'.bus = v.bus) (hscl : v'.scl = v.scl) (hstall : v'.stall = v.stall) (hall : held' ++ bytes' = held ++ bytes) :
    ∃ r r', (s.setPort p v).receiveBytes p held bytes = .next r ∧ (s.setPort p v').receiveBytes p held' bytes' = .next r' ∧
      ∀ driven taken, r.drive p driven taken = r'.drive p driven taken := by
  have hcommand : ∀ tag len valid body, (s.setPort p v').command p tag len valid body =
      (s.setPort p v).command p tag len valid body := by
    intro tag len valid body
    have h := State.command_setPort (s := s.setPort p v) (p := p) (v := v') (by simpa using hr)
      (by simpa [PortState.windowAtEnd_isExecuting] using hv) (by rwa [PortState.windowAtEnd_isExecuting]) tag len valid body
    rwa [State.setPort_setPort] at h
  unfold State.receiveBytes State.judgeFrame
  rw [hall]
  dsimp only
  split
  · exact ⟨_, _, rfl, rfl, fun driven taken => by simp [State.setWindow, State.drive, hbus, hscl, hstall]⟩
  · split
    · split
      case h_4 i hi =>
        obtain ⟨tag, len, valid, body, hrun⟩ := runCommand_of_decodeFrame hi
        simp only [hrun, hcommand]
        exact ⟨_, _, rfl, rfl, fun _ _ => rfl⟩
      all_goals
        exact ⟨_, _, rfl, rfl, fun driven taken => by
          simp [State.answerFrame, State.setBus, State.setWindow, State.drive, hscl, hstall]⟩
    · exact ⟨_, _, rfl, rfl, fun driven taken => by simp [State.setWindow, State.drive, hbus, hscl, hstall]⟩

/-! ### Time passes a port by, but for port B's stall timer -/

theorem State.elapse_setPort_b (s : State) (v : PortState) (n : Nat) :
    (s.setPort .b v).elapse n = (s.elapse n).setPort .b (v.elapse n) := rfl

theorem PortState.elapse_of_high {v : PortState} (h : v.scl = .high) (n : Nat) : v.elapse n = v :=
  if_neg fun hl => by simp [h] at hl

theorem PortState.elapse_of_low {v : PortState} (hb : v.bus ≠ .none) (h : v.scl = .low) (n : Nat) :
    v.elapse n = { v with stall := v.stall + n } := if_pos ⟨hb, h⟩

theorem exec_stallTimeout {s : State} (hr : s.resetAsserted = false) :
    exec .stallTimeout s = .next (match s.runTo s.stallLeft with
      | none => s
      | some s' => s'.abandonTransaction) := by
  show execStallTimeout s = _
  rw [execStallTimeout, hr]
  rfl

/-- While SCL is high no stall is counted, and the transaction is not abandoned. -/
theorem exec_stallTimeout_high {s : State} (hr : s.resetAsserted = false) (h : s.portB.scl = .high) :
    exec .stallTimeout s = .next s := by
  have hleft : s.stallLeft = none := if_neg fun hl => by simp [h] at hl
  rw [exec_stallTimeout hr, hleft]
  rfl

/-- At the stall timeout the transaction is abandoned. -/
theorem exec_stallTimeout_low {s : State} {n : Nat} (hr : s.resetAsserted = false) (hb : s.portB.bus ≠ .none)
    (h : s.portB.scl = .low) (hn : s.portB.stall + n = 25000) (hs : s.NothingSooner n) :
    exec .stallTimeout s = .next (s.elapse n).abandonTransaction := by
  have hleft : s.stallLeft = some n := by
    rw [State.stallLeft, if_pos ⟨hb, h⟩]
    exact congrArg some (by unfold Config.stallMicros; omega)
  rw [exec_stallTimeout hr, hleft, State.runTo_of_nothingSooner hs]

/-- Port B's interface abandons a transaction of which it has just taken a byte, 25 ms later. -/
theorem exec_stallTimeout_setPort {s : State} {v : PortState} (hr : s.resetAsserted = false) (hb : v.bus ≠ .none)
    (hl : v.scl = .low) (hn : v.stall = 0) (hs : (s.setPort .b v).NothingSooner 25000) :
    exec .stallTimeout (s.setPort .b v) =
      .next ((s.elapse 25000).setPort .b { v with bus := .none, window := v.window.discardPartial, stall := 0 }) := by
  have hstall : (s.setPort .b v).portB.stall + 25000 = 25000 := by
    show v.stall + 25000 = 25000
    omega
  rw [exec_stallTimeout_low (s := s.setPort .b v) hr hb hl hstall hs, State.elapse_setPort_b,
    PortState.elapse_of_low hb hl]
  rfl

/-! ### Frames in pieces -/

/-- The port while a frame's first bytes have come. -/
def PortState.partly (p : Port) (bytes : List Byte) : PortState :=
  ⟨.receiving bytes, .receiving, writeDrive p (bytes.length + 1), true, sclAfterByte p, 0⟩

section
variable {s : State} {p : Port} {bytes : List Byte} (ha : s.accepts p = true) (hb : bytes ≠ [])
include ha

include hb in
theorem exec_requestFrame_partial (hlen : ∀ n, frameLength bytes = some n → bytes.length < n) :
    exec (.requestFrame p (some (s.writeOpening p)) bytes) s = .next (s.setPort p (PortState.partly p bytes)) := by
  rw [exec_requestFrame_write ha hb, State.receiveBytes_partial (held := []) hlen]
  simp [State.driveMore, State.drive, State.setWindow, PortState.taking, PortState.partly]

/-- More bytes of the frame are received as if they had come with the first. -/
theorem exec_requestFrame_pieces {more : List Byte} (hm : more ≠ []) :
    exec (.requestFrame p none more) (s.setPort p (PortState.partly p bytes)) =
      exec (.requestFrame p (some (s.writeOpening p)) (bytes ++ more)) s := by
  have hr := State.resetAsserted_of_accepts ha
  obtain ⟨r, r', hx, hx', hdrive⟩ := State.receiveBytes_congr (s := s) (p := p) (v := PortState.partly p bytes)
    (v' := (s.port p).taking p) (held := bytes) (bytes := more) (held' := []) (bytes' := bytes ++ more) hr rfl
    (State.windowAtEnd_of_accepts ha) rfl rfl rfl rfl
  rw [exec_requestFrame_write ha (by simp [hm]), hx', exec_requestFrame_more (by simpa using hr) p hm]
  have hclock : (s.setPort p (PortState.partly p bytes)).clockByte p = s.setPort p (PortState.partly p bytes) := by
    simp [State.clockByte, PortState.partly]
  have hfeed : (s.setPort p (PortState.partly p bytes)).feed p more =
      (s.setPort p (PortState.partly p bytes)).receiveBytes p bytes more := by
    unfold State.feed
    simp [PortState.partly]
  have hcontinue : (s.setPort p (PortState.partly p bytes)).continueTransaction p more =
      .next (r.driveMore p (writeDrive p (bytes.length + 1)) more.length true) := by
    unfold State.continueTransaction
    dsimp only
    rw [hclock, hfeed, hx]
    simp [PortState.partly]
  rw [hcontinue, State.driveMore, hdrive, writeDrive_append]
  dsimp only
  rw [State.driveMore, List.nil_append, List.length_append, Nat.add_right_comm]

end

/-- Settles O12: the port holds the bytes so far (`PortState.partly`), from where the frame goes on, ends or stalls. -/
theorem framesArriveInPieces : Obligations.FramesArriveInPieces := by
  intro s p bytes ha hb hlen
  have hr := State.resetAsserted_of_accepts ha
  refine ⟨_, exec_requestFrame_partial ha hb hlen, by simp [PortState.partly], by simp,
    fun more hm => exec_requestFrame_pieces ha hm, ⟨_, exec_partialFrameDiscard (by simpa using hr) p, ?_, ?_⟩,
    fun hp => ?_, fun hp k => ?_, fun hp hs => ?_⟩
  · simp [State.endTransaction, PortState.windowAtEnd, PortState.partly, CommandWindow.discardPartial]
  · simp [State.endTransaction]
  · subst hp
    exact exec_requestFrame_edge (by simpa using hr) .a
  · subst hp
    have hlate : (s.setPort .b (PortState.partly .b bytes)).elapse k =
        (s.elapse k).setPort .b { PortState.partly .b bytes with stall := 0 + k } := by
      rw [State.elapse_setPort_b, PortState.elapse_of_low (by simp [PortState.partly]) rfl]
      rfl
    intro late high
    have hhigh : high = (s.elapse k).setPort .b { PortState.partly .b bytes with scl := .high, stall := 0 } := by
      simp only [high, late, hlate, State.port_setPort, State.setPort_setPort, if_true]
    refine ⟨?_, fun n => ?_, ?_⟩
    · exact exec_requestFrame_edge (by simp [late, hr]) .b
    · have hpass : (high.elapse n).port .b = high.port .b := by
        rw [hhigh, State.elapse_setPort_b, PortState.elapse_of_high rfl]
        simp
      refine ⟨hpass, exec_stallTimeout_high (by simp [hhigh, hr]) ?_⟩
      show ((high.elapse n).port .b).scl = .high
      rw [hpass, hhigh]
      simp
    · rw [exec_requestFrame_edge (by simp [hhigh, hr]) .b, hhigh]
      rfl
  · subst hp
    refine ⟨_, exec_stallTimeout_setPort hr (by simp [PortState.partly]) rfl rfl hs, ?_, ?_, ?_⟩
    · simp [PortState.partly, CommandWindow.discardPartial]
    · simp
    · rw [State.setPort_setPort]

/-! ### R170: writes that collide -/

/-- The port of an EXECUTING window while a write's bytes are discarded. -/
def PortState.colliding (v : PortState) (p : Port) (tag : Byte) (driven : List Byte) (taken : Bool) : PortState :=
  { v with
    window := .executing tag true, bus := .discarding, driven := driven, acknowledged := taken
    scl := sclAfterByte p, stall := 0 }

theorem exec_collidingWrite {s : State} (hr : s.resetAsserted = false) (p : Port) :
    exec (.collidingWrite p) s = .next (s.collide p) := by
  show Host.Outcome.next (if s.resetAsserted then s else s.collide p) = _
  rw [hr]
  rfl

theorem State.collide_eq {s : State} {p : Port} {tag : Byte} {m : Bool} (hw : (s.port p).window = .executing tag m) :
    s.collide p = s.setPort p ((s.port p).colliding p tag (writeDrive p 2) true) := by
  simp [State.collide, hw, State.startTransaction_eq, State.setBus, State.drive, State.setWindow, PortState.colliding]

/-- The states of a port's bus in which the bytes that follow go nowhere. -/
def Bus.isDeaf : Bus → Bool
  | .none | .ignoring | .discarding => true
  | .opened | .receiving | .reading .. => false

theorem State.continueTransaction_deaf {s : State} {p : Port} {v : PortState} (hb : v.bus.isDeaf = true)
    (bytes : List Byte) : ∃ driven, (s.setPort p v).continueTransaction p bytes =
      .next (s.setPort p { v with driven := driven, scl := sclAfterByte p, stall := 0 }) := by
  have hfeed : ∀ w : PortState, w.bus.isDeaf = true → (s.setPort p w).feed p bytes = .next (s.setPort p w) := by
    intro w hw
    cases hbus : w.bus <;> simp only [hbus, Bus.isDeaf, Bool.false_eq_true] at hw <;> simp [State.feed, hbus]
  unfold State.continueTransaction State.clockByte
  simp only [State.port_setPort, if_true, State.setPort_setPort]
  cases hbus : v.bus <;> simp only [hbus, Bus.isDeaf, Bool.false_eq_true] at hb
  case none => exact ⟨v.driven, rfl⟩
  all_goals
    refine ⟨v.driven ++ writeDrive p bytes.length, ?_⟩
    dsimp only
    rw [hfeed _ rfl]
    simp [State.driveMore, State.drive]

/-- Bytes that follow change no more than what the port drives. -/
theorem exec_requestFrame_deaf {s : State} {p : Port} {v : PortState} (hr : s.resetAsserted = false)
    (hb : v.bus.isDeaf = true) (bytes : List Byte) :
    ∃ u, exec (.requestFrame p none bytes) (s.setPort p v) = .next u ∧ (u.port p).window = v.window ∧
      (u.port p).acknowledged = v.acknowledged ∧ ∀ x, u.setPort p x = s.setPort p x := by
  by_cases hbytes : bytes = []
  · subst hbytes
    refine ⟨_, exec_requestFrame_edge (by simpa using hr) p, ?_, ?_, fun x => ?_⟩
    · cases p <;> simp [State.clockEdge, State.setPort, State.port]
    · cases p <;> simp [State.clockEdge, State.setPort, State.port]
    · cases p <;> simp [State.clockEdge, State.setPort]
  · obtain ⟨driven, hcontinue⟩ := State.continueTransaction_deaf (s := s) (p := p) hb bytes
    exact ⟨_, (exec_requestFrame_more (by simpa using hr) p hbytes).trans hcontinue, by simp, by simp,
      fun x => State.setPort_setPort ..⟩

/-- The first byte of a write finds the window EXECUTING. -/
theorem State.feed_executing {s : State} {p : Port} {v : PortState} {tag : Byte} {m : Bool} {bytes : List Byte}
    (hw : v.window = .executing tag m) (hb : v.bus = .opened) (hbytes : bytes ≠ []) : (s.setPort p v).feed p bytes =
      .next (s.setPort p { v with bus := .discarding, window := .executing tag true }) := by
  obtain ⟨b, bs, rfl⟩ := List.exists_cons_of_ne_nil hbytes
  unfold State.feed
  simp only [State.port_setPort, if_true, hb, hw, State.setBus, State.setWindow, State.setPort_setPort]

/-- Settles O13: a write that begins on an EXECUTING window finds it marked and goes nowhere. -/
theorem collidingWriteMarksTheWindow : Obligations.CollidingWriteMarksTheWindow := by
  intro s p tag m hr hw
  refine ⟨⟨_, exec_collidingWrite hr p, ?_, ?_, fun bytes => ?_⟩, fun bytes hb => ?_⟩
  · simp [State.collide_eq hw, PortState.colliding]
  · simp [State.collide_eq hw]
  · rw [State.collide_eq hw]
    obtain ⟨u, hx, hwindow, -, hport⟩ := exec_requestFrame_deaf (s := s) (p := p)
      (v := (s.port p).colliding p tag (writeDrive p 2) true) hr rfl bytes
    exact ⟨u, hx, hwindow, (hport _).trans (State.setPort_self s p)⟩
  · have hopened : ((s.port p).opened p).window = .executing tag m := PortState.windowAtEnd_of_executing hw
    have hfeed := State.feed_executing (s := s) (p := p) hopened rfl hb
    refine ⟨_, (exec_requestFrame_open hr p _ bytes).trans ((State.openTransaction_write s p bytes).trans (by rw [hfeed])),
      ?_, ?_⟩
    · rw [State.window_driveMore]
      simp
    · rw [State.setPort_driveMore]
      simp

end Sys2Proof.Machine
end

section
/-! Reads (R169, R172 to R176) and transactions that open with a byte the port does not take (R173, R174). -/

namespace Sys2Proof.Machine

/-! ### Openings -/

theorem State.readOpening_ne_writeOpening (s : State) (p : Port) : s.readOpening p ≠ s.writeOpening p := by
  cases p with
  | a => simp [State.readOpening, State.writeOpening]
  | b =>
    intro h
    have hbit := congrArg (fun x : Byte => x.getLsbD 0) h
    simp [State.readOpening, State.writeOpening] at hbit

theorem State.openTransaction_of_read (s : State) (p : Port) (bytes : List Byte) :
    s.openTransaction p (s.readOpening p) bytes =
      .next ((s.beginRead p).readMore p ((s.beginRead p).port p).window 0 bytes.length) := by
  rw [State.openTransaction, if_neg (s.readOpening_ne_writeOpening p), if_pos rfl]

theorem State.openTransaction_of_foreign {s : State} {p : Port} {opening : Byte} (hread : opening ≠ s.readOpening p)
    (hwrite : opening ≠ s.writeOpening p) (bytes : List Byte) :
    s.openTransaction p opening bytes = .next (s.foreignTransaction p bytes.length) := by
  rw [State.openTransaction, if_neg hwrite, if_neg hread]

theorem exec_responseRead {s t : State} {p : Port} {opening : Byte} {n : Nat} (hr : s.resetAsserted = false)
    (h : s.openTransaction p opening (List.replicate n 0) = .next t) (ended : Bool) :
    exec (.responseRead p opening ⟨n, ended⟩) s = .next (if ended then t.endTransaction p else t) := by
  show execResponseRead p opening ⟨n, ended⟩ s = _
  simp only [execResponseRead, hr, Bool.false_eq_true, if_false, h]

/-! ### The end of a transaction -/

theorem CommandWindow.discardPartial_of_not_receiving {w : CommandWindow} (h : ∀ held, w ≠ .receiving held) :
    w.discardPartial = w := by
  cases w with
  | receiving held => exact absurd rfl (h held)
  | idle | executing | ready => rfl

theorem PortState.windowAtEnd_of_not_reading {v : PortState} (hb : ∀ found sent, v.bus ≠ .reading found sent) :
    v.windowAtEnd = v.window.discardPartial := by
  unfold PortState.windowAtEnd
  split
  · rename_i h _
    exact absurd h (hb _ _)
  · rfl

/-- A transaction's end is the same before it and at the opening of the next. -/
theorem State.startTransaction_endTransaction (s : State) (p : Port) :
    (s.endTransaction p).startTransaction p = s.startTransaction p := by
  have hend : ({ s.port p with bus := .none, window := (s.port p).windowAtEnd, scl := .high, stall := 0 } :
      PortState).windowAtEnd = (s.port p).windowAtEnd :=
    (PortState.windowAtEnd_of_not_reading (by simp)).trans
      (CommandWindow.discardPartial_of_not_receiving (PortState.windowAtEnd_ne_receiving _))
  rw [State.startTransaction_eq, State.startTransaction_eq, State.endTransaction, State.setPort_setPort,
    State.port_setPort, if_pos rfl, hend]

theorem State.openTransaction_endTransaction (s : State) (p : Port) (opening : Byte) (bytes : List Byte) :
    (s.endTransaction p).openTransaction p opening bytes = s.openTransaction p opening bytes := by
  have hread : (s.endTransaction p).beginRead p = s.beginRead p := by
    rw [State.beginRead, State.startTransaction_endTransaction, State.beginRead]
  have hwrite : (s.endTransaction p).writeOpening p = s.writeOpening p := by cases p <;> rfl
  have hopening : (s.endTransaction p).readOpening p = s.readOpening p := by cases p <;> rfl
  simp only [State.openTransaction, State.foreignTransaction, State.startTransaction_endTransaction, hread, hwrite,
    hopening]

/-! ### Reads -/

theorem CommandWindow.take_readBytes (w : CommandWindow) (m n : Nat) : (w.readBytes (m + n)).take m = w.readBytes m := by
  cases w with
  | ready r =>
    simp only [CommandWindow.readBytes, List.take_append, List.take_take, List.take_replicate, List.length_take]
    congr 2 <;> omega
  | idle | receiving | executing => simp [CommandWindow.readBytes]

/-- A read goes on where it stopped. -/
theorem CommandWindow.readBytes_append (w : CommandWindow) (m n : Nat) :
    w.readBytes m ++ (w.readBytes (m + n)).drop m = w.readBytes (m + n) := by
  rw [← w.take_readBytes m n, List.take_append_drop]

/-- The port in a read of `n` bytes, left in progress. -/
def PortState.read (v : PortState) (p : Port) (n : Nat) : PortState :=
  ⟨v.windowAtEnd, .reading v.windowAtEnd n, writeDrive p 1 ++ v.windowAtEnd.readBytes n, true, sclAfterByte p, 0⟩

theorem State.openTransaction_read (s : State) (p : Port) (bytes : List Byte) :
    s.openTransaction p (s.readOpening p) bytes = .next (s.setPort p ((s.port p).read p bytes.length)) := by
  rw [State.openTransaction_of_read]
  simp [State.beginRead, State.readMore, State.startTransaction_eq, State.setBus, State.drive, PortState.read]

theorem State.continueTransaction_read (s : State) (p : Port) (v : PortState) (n : Nat) (more : List Byte) :
    (s.setPort p (v.read p n)).continueTransaction p more = .next (s.setPort p (v.read p (n + more.length))) := by
  simp [State.continueTransaction, State.clockByte, PortState.read, State.readMore, State.setBus, State.drive,
    CommandWindow.readBytes_append]

section
variable {s : State} {p : Port} (hr : s.resetAsserted = false)
include hr

theorem exec_requestFrame_read (bytes : List Byte) :
    exec (.requestFrame p (some (s.readOpening p)) bytes) s = .next (s.setPort p ((s.port p).read p bytes.length)) := by
  rw [exec_requestFrame_open hr, State.openTransaction_read]

theorem exec_responseRead_read (n : Nat) (ended : Bool) :
    exec (.responseRead p (s.readOpening p) ⟨n, ended⟩) s = .next (if ended then
      (s.setPort p ((s.port p).read p n)).endTransaction p else s.setPort p ((s.port p).read p n)) := by
  have h := s.openTransaction_read p (List.replicate n 0)
  rw [List.length_replicate] at h
  exact exec_responseRead hr h ended

end

theorem State.endTransaction_read (s : State) (p : Port) (v : PortState) (n : Nat) :
    (s.setPort p (v.read p n)).endTransaction p = s.setPort p
      ⟨(v.read p n).windowAtEnd, .none, writeDrive p 1 ++ v.windowAtEnd.readBytes n, true, .high, 0⟩ := by
  simp [State.endTransaction, PortState.read]

/-- What a read's end leaves: a READY response read whole is consumed. -/
theorem PortState.windowAtEnd_read_ready {v : PortState} {r : Response} (h : v.windowAtEnd = .ready r) (p : Port)
    (n : Nat) : (v.read p n).windowAtEnd = if r.frame.length ≤ n then .idle else .ready r := by
  have hbus : (v.read p n).bus = .reading (.ready r) n := congrArg (Bus.reading · n) h
  have hwindow : (v.read p n).window = .ready r := h
  simp only [PortState.windowAtEnd, hbus, hwindow]

theorem PortState.windowAtEnd_read_of_not_ready {v : PortState} (h : ∀ r, v.windowAtEnd ≠ .ready r) (p : Port) (n : Nat) :
    (v.read p n).windowAtEnd = v.windowAtEnd := by
  have hwindow : (v.read p n).windowAtEnd = (v.read p n).window.discardPartial := by
    rw [PortState.windowAtEnd]
    split
    · rename_i hw
      exact absurd hw (h _)
    · rfl
  rw [hwindow]
  exact CommandWindow.discardPartial_of_not_receiving (PortState.windowAtEnd_ne_receiving v)

/-! ### Response frames (R169, R176) -/

theorem Response.byteSum_frame (r : Response) : byteSum r.frame = 0 := by
  show byteSum (_ ++ [checkByte _]) = 0
  rw [byteSum_concat, checkByte, byteSum]
  exact BitVec.add_right_neg _

theorem Response.length_frame (r : Response) : r.frame.length = 4 + r.data.length := by
  simp [Response.frame]
  omega

theorem Response.data_frame (r : Response) : (r.frame.drop 3).take r.data.length = r.data := by
  simp [Response.frame]

/-- Settles O14. -/
theorem responseReadsFollowTheWindow : Obligations.ResponseReadsFollowTheWindow := by
  refine ⟨fun s p bytes hr => ?_, fun s u p opening bytes hu => ?_, fun r hr => ?_⟩
  · intro w drove hreading hreceiving
    have hw : (s.port p).windowAtEnd = w := (PortState.windowAtEnd_of_not_reading hreading).trans
      (CommandWindow.discardPartial_of_not_receiving hreceiving)
    have hdrive : writeDrive p 1 = if p = .a then [0] else [] := by cases p <;> rfl
    have hdrove : ∀ n, drove (s.setPort p ((s.port p).read p n)) (w.readBytes n) := by
      intro n
      simp [drove, PortState.read, hw, hdrive]
    refine ⟨_, _, exec_requestFrame_read hr bytes, exec_responseRead_read hr _ false, by simp, by simp [PortState.read, hw],
      fun r hr => ?_, fun tag m hm => ?_, fun hi => ?_, fun more hm => ?_, exec_partialFrameDiscard (by simpa using hr) p,
      exec_responseRead_read hr _ true, ?_, ?_, ?_, fun r hr => ?_, fun hn => ?_, fun hp hs => ?_⟩
    · exact (congrArg (fun x => drove _ (x.readBytes bytes.length)) hr).mp (hdrove _)
    · exact (congrArg (fun x => drove _ (x.readBytes bytes.length)) hm).mp (hdrove _)
    · exact (congrArg (fun x => drove _ (x.readBytes bytes.length)) hi).mp (hdrove _)
    · rw [exec_requestFrame_more (by simpa using hr) p hm, State.continueTransaction_read, exec_requestFrame_read hr,
        List.length_append]
    · simp [State.endTransaction_read]
    · rw [State.endTransaction_read]
      simp [PortState.read]
    · simp [State.endTransaction_read]
    · rw [State.endTransaction_read, State.port_setPort, if_pos rfl]
      exact PortState.windowAtEnd_read_ready (hw.trans hr) p _
    · rw [State.endTransaction_read, State.port_setPort, if_pos rfl]
      exact (PortState.windowAtEnd_read_of_not_ready (fun r => hw ▸ hn r) p _).trans hw
    · subst hp
      refine ⟨_, exec_stallTimeout_setPort hr (by simp [PortState.read]) rfl rfl hs, ?_, by simp, by simp⟩
      simp [PortState.read, hw, CommandWindow.discardPartial_of_not_receiving hreceiving]
  · cases hra : s.resetAsserted with
    | true =>
      have hsame : exec (.partialFrameDiscard p) s = .next s := by
        show Host.Outcome.next (if s.resetAsserted then s else _) = _
        rw [hra, if_pos rfl]
      obtain rfl : s = u := Host.Outcome.next.inj (hsame.symm.trans hu)
      rfl
    | false =>
      obtain rfl : s.endTransaction p = u := Host.Outcome.next.inj ((exec_partialFrameDiscard hra p).symm.trans hu)
      rw [exec_requestFrame_open hra, exec_requestFrame_open (by simpa [State.endTransaction] using hra),
        State.openTransaction_endTransaction]
  · refine ⟨r.length_frame, r.byteSum_frame, ?_, rfl, ?_, r.data_frame⟩
    · obtain ⟨status, marker, tag, data⟩ := r
      cases status <;> rfl
    · show (byteOf r.data.length).toNat = _
      rw [byteOf, BitVec.toNat_ofNat]
      omega

/-! ### Foreign openings -/

/-- The port in a transaction of `n` bytes after an opening that is not its own. -/
def PortState.foreign (v : PortState) (p : Port) (n : Nat) : PortState :=
  ⟨v.windowAtEnd, if p = .a then .ignoring else .none, writeDrive p (n + 1), false, sclAfterByte p, 0⟩

theorem State.foreignTransaction_eq (s : State) (p : Port) (n : Nat) :
    s.foreignTransaction p n = s.setPort p ((s.port p).foreign p n) := by
  unfold State.foreignTransaction
  rw [State.startTransaction_eq]
  cases p <;> simp [State.setBus, State.drive, PortState.foreign, writeDrive]

theorem PortState.isDeaf_foreign (v : PortState) (p : Port) (n : Nat) : (v.foreign p n).bus.isDeaf = true := by
  cases p <;> rfl

theorem State.endTransaction_foreign (s : State) (p : Port) (v : PortState) (n : Nat) :
    (s.setPort p (v.foreign p n)).endTransaction p =
      s.setPort p { v.foreign p n with bus := .none, scl := .high } := by
  have hwindow : (v.foreign p n).windowAtEnd = v.windowAtEnd := by
    rw [PortState.windowAtEnd_of_not_reading (by cases p <;> simp [PortState.foreign])]
    exact CommandWindow.discardPartial_of_not_receiving (PortState.windowAtEnd_ne_receiving v)
  rw [State.endTransaction, State.port_setPort, if_pos rfl, hwindow, State.setPort_setPort]
  rfl

/-- A request write of bytes that are 00h is a partial frame, or one with code 00h, which spells no command. -/
theorem State.receiveBytes_zeros (s : State) (p : Port) (count : Nat) :
    ∃ t, s.receiveBytes p [] (List.replicate count 0) = .next t ∧ t.resetAsserted = s.resetAsserted := by
  by_cases hc : count < 4
  · have hpart : ∀ n, frameLength ([] ++ List.replicate count (0 : Byte)) = some n →
        ([] ++ List.replicate count (0 : Byte)).length < n := by
      interval_cases count <;> simp [frameLength]
    exact ⟨_, State.receiveBytes_partial hpart, by simp [State.setWindow]⟩
  · obtain ⟨k, rfl⟩ := Nat.exists_eq_add_of_le' (Nat.not_lt.mp hc)
    have hjudge : s.judgeFrame p [0, 0, 0, 0] = .next (s.answerFrame p [0, 0, 0, 0] .unknownCommand) := by
      have hdecode : decodeFrame p [0, 0, 0, 0] = .unknownCommand := rfl
      rw [State.judgeFrame, hdecode]
    have hframe : ([] ++ List.replicate (k + 4) (0 : Byte)).take 4 = [0, 0, 0, 0] := by
      simp [List.take_replicate, List.replicate]
    have hreceive := State.receiveBytes_complete (s := s) (p := p) (held := []) (bytes := List.replicate (k + 4) 0)
      (n := 4) rfl (by simp)
    rw [hframe, hjudge] at hreceive
    exact ⟨_, hreceive, by simp [State.answerFrame, State.setBus, State.setWindow]⟩

theorem State.openTransaction_zeros {s : State} (hr : s.resetAsserted = false) (p : Port) (count : Nat) :
    ∃ t, s.openTransaction p (s.writeOpening p) (List.replicate count 0) = .next t ∧ t.resetAsserted = false ∧
      (t.port p).acknowledged = true := by
  have hfeed : ∃ t, (s.setPort p ((s.port p).opened p)).feed p (List.replicate count 0) = .next t ∧
      t.resetAsserted = false := by
    by_cases hb : count = 0
    · subst hb
      exact ⟨s.setPort p ((s.port p).opened p), by simp [State.feed, PortState.opened], by simpa using hr⟩
    · have hbytes : List.replicate count (0 : Byte) ≠ [] := by simpa using hb
      cases hw : ((s.port p).opened p).window.isExecuting with
      | true =>
        obtain ⟨tag, m, hx⟩ : ∃ tag m, ((s.port p).opened p).window = .executing tag m := by
          cases hwindow : ((s.port p).opened p).window <;> simp [hwindow, CommandWindow.isExecuting] at hw ⊢
        exact ⟨_, State.feed_executing hx rfl hbytes, by simpa using hr⟩
      | false =>
        rw [State.feed_opened hw rfl hbytes]
        obtain ⟨t, ht, hreset⟩ := State.receiveBytes_zeros
          (s.setPort p { (s.port p).opened p with bus := .receiving }) p count
        exact ⟨t, ht, by simpa [hr] using hreset⟩
  obtain ⟨t, ht, hreset⟩ := hfeed
  rw [State.openTransaction_write, ht]
  exact ⟨_, rfl, by simpa [State.driveMore, State.drive] using hreset, by simp [State.driveMore, State.drive]⟩

/-- Settles O15. -/
theorem foreignTransactionsHaveNoEffect : Obligations.ForeignTransactionsHaveNoEffect := by
  refine ⟨fun s p opening bytes hr hread hwrite hreceiving hreading => ?_, fun s p count hr => ?_⟩
  · have hw : (s.port p).windowAtEnd = (s.port p).window := (PortState.windowAtEnd_of_not_reading hreading).trans
      (CommandWindow.discardPartial_of_not_receiving hreceiving)
    have hopen : ∀ bs : List Byte, s.openTransaction p opening bs =
        .next (s.setPort p ((s.port p).foreign p bs.length)) := by
      intro bs
      rw [State.openTransaction_of_foreign hread hwrite, State.foreignTransaction_eq]
    have hdriven : writeDrive p (bytes.length + 1) = if p = .a then List.replicate (bytes.length + 1) 0 else [] := by
      cases p <;> rfl
    have hzeros := hopen (List.replicate bytes.length 0)
    rw [List.length_replicate] at hzeros
    refine ⟨_, _, exec_responseRead hr hzeros false, (exec_requestFrame_open hr p opening bytes).trans (hopen bytes),
      exec_responseRead hr hzeros true, ?_, fun more => ?_⟩
    · intro v hv
      simp only [Bool.false_eq_true, if_false, if_true, State.endTransaction_foreign, List.mem_cons, List.not_mem_nil,
        or_false] at hv
      obtain rfl | rfl := hv <;> simp [PortState.foreign, hw, hdriven]
    · obtain ⟨u, hx, hwindow, hack, hport⟩ := exec_requestFrame_deaf hr ((s.port p).isDeaf_foreign p bytes.length) more
      exact ⟨u, hx, hwindow.trans hw, (hport _).trans (State.setPort_self s p), hack⟩
  · obtain ⟨t, hopen, hreset, hack⟩ := State.openTransaction_zeros hr p count
    exact ⟨t, _, (exec_requestFrame_open hr p _ _).trans hopen, exec_responseRead hr hopen false,
      exec_partialFrameDiscard hreset p, exec_responseRead hr hopen true, hack⟩

end Sys2Proof.Machine
end

section
/-! The resume work (R49, R50, R62, R64) as what it makes of the state and of each entry. -/

namespace Sys2Proof.Machine

/-! ### The answer of RESUME -/

/-- RESUME answers with the claims that its work leaves, whatever its port does before. -/
theorem answers_resume {s s' : State} {p : Port} {between : List Between} (ha : s.accepts p = true)
    (h : ∀ v, (s.setPort p v).releaseHold p (beforeClaim p between) = s'.setPort p v) (tag : Byte)
    (own : List OwnTransaction) :
    ∃ t, exec (.resume p ⟨tag, between, own⟩) s = .next t ∧
      (t.port p).window = .ready ⟨.ok, decide (OwnTransaction.write ∈ own), tag, holdData s'⟩ ∧
      t.setPort p (s'.port p) = s' := by
  obtain ⟨v, hv, hcommand⟩ := State.command_spec ha tag 0 (resumeBody p own (beforeClaim p between))
  obtain ⟨u, hu, hown⟩ := State.ownTransactions_spec (s := s.setPort p v) own (by rw [State.port_setPort, if_pos rfl, hv])
  have hdata : holdData (s'.setPort p u) = holdData s' := by cases p <;> rfl
  refine ⟨_, rfl, ?_⟩
  rw [hcommand, resumeBody, hown, State.setPort_setPort, h, hdata]
  simp [State.reply, State.answer, hu, State.setWindow]

/-! ### Work that touches one entry at a time -/

/-- Operations that show themselves only where they act leave the rest as it was, and act where they do on what stood there. -/
theorem foldl_view {α β : Type} {f : State → α → State} {key : α → EntryIndex} {i : EntryIndex} {view : State → β}
    (hf : ∀ s a, key a ≠ i → view (f s a) = view s) {l : List α} (hd : (l.map key).Nodup) (s : State) :
    (i ∉ l.map key → view (l.foldl f s) = view s) ∧
    (∀ a ∈ l, key a = i → ∃ u, view u = view s ∧ view (l.foldl f s) = view (f u a)) := by
  induction l generalizing s with
  | nil => exact ⟨fun _ => rfl, nofun⟩
  | cons b l ih =>
    obtain ⟨hb, hd⟩ := List.nodup_cons.mp hd
    obtain ⟨hout, hin⟩ := ih hd (f s b)
    refine ⟨fun hi => ?_, fun a ha hi => ?_⟩
    · obtain ⟨hib, hil⟩ := List.ne_and_not_mem_of_not_mem_cons hi
      exact (hout hil).trans (hf s b (Ne.symm hib))
    · rcases List.mem_cons.mp ha with rfl | ha
      · exact ⟨s, rfl, hout (hi ▸ hb)⟩
      · have hib : key b ≠ i := fun h => hb (h.trans hi.symm ▸ List.mem_map_of_mem ha)
        obtain ⟨u, hu, ht⟩ := hin a ha hi
        exact ⟨u, hu.trans (hf s b hib), ht⟩

theorem foldl_surroundings {α : Type} {f : State → α → State} (hf : ∀ s a, (f s a).surroundings = s.surroundings)
    (l : List α) (s : State) : (l.foldl f s).surroundings = s.surroundings := by
  induction l generalizing s with
  | nil => rfl
  | cons a l ih => rw [List.foldl_cons, ih, hf]

/-! ### What the work makes of a watch -/

/-- A watch as starts leave it: its definition and due time stand, and its overruns only grow (up to 255). -/
structure Watch.GrownFrom (w w' : Watch) : Prop where
  defn : w'.defn = w.defn
  due : w'.dyn.due = w.dyn.due
  overruns : min 255 w.dyn.overruns ≤ w'.dyn.overruns

theorem Watch.GrownFrom.refl (w : Watch) : w.GrownFrom w := ⟨rfl, rfl, by omega⟩

section
variable {s : State} {i j : EntryIndex} {w : Watch}

theorem State.startRequest_grown (hw : (s.entry i).watch = some w) (x : Watch) :
    ∃ w', ((s.startRequest i x).1.entry i).watch = some w' ∧ w.GrownFrom w' := by
  rcases s.startRequest_cases i x with hr | hr | hr
  · have hentry := congrArg Entry.watch ((State.register_congr hr).1 i)
    exact ⟨w, hentry.trans hw, .refl w⟩
  · rw [hr]
    exact ⟨{ w with dyn := { w.dyn with heldTrigger := true } }, by simp [hw], rfl, rfl, by simp⟩
  · rw [hr, State.countOverrun_of_watch hw, State.afterOverrun_entry_self]
    exact ⟨_, rfl, rfl, rfl, by dsimp only; omega⟩

theorem State.serviceHeld_of_waits (h : s.Waits i w) : s.serviceHeld i = ((s.withWatchAt i { w with dyn :=
    { w.dyn with heldTrigger := false } }).startRequest i { w with dyn := { w.dyn with heldTrigger := false } }).1 := by
  obtain ⟨hs, hw, hh, ha⟩ := h
  rw [State.serviceHeld, hw]
  dsimp only
  rw [if_pos ⟨hs, hh, ha⟩, State.clearHeld, State.updateWatch_of_watch hw]

theorem State.serviceHeld_of_not_waits (h : ∀ w, ¬ s.Waits i w) : s.serviceHeld i = s :=
  (State.serviceHeld_spec s i).2 h

theorem State.serviceHeld_entry_of_ne (h : i ≠ j) : (s.serviceHeld i).entry j = s.entry j := by
  by_cases hw : ∃ w, s.Waits i w
  · obtain ⟨w, hw⟩ := hw
    rw [State.serviceHeld_of_waits hw, State.startRequest_entry_of_ne _ _ h]
    simp [State.withWatchAt, h]
  · rw [State.serviceHeld_of_not_waits (not_exists.mp hw)]

theorem State.serviceHeld_grown (hw : (s.entry i).watch = some w) :
    ∃ w', ((s.serviceHeld i).entry i).watch = some w' ∧ w.GrownFrom w' := by
  by_cases hx : ∃ x, s.Waits i x
  · obtain ⟨x, hx⟩ := hx
    obtain rfl : x = w := Option.some.inj (hx.2.1.symm.trans hw)
    rw [State.serviceHeld_of_waits hx]
    obtain ⟨w', hw', hg⟩ := State.startRequest_grown (s := s.withWatchAt i { x with dyn := { x.dyn with heldTrigger := false } })
      (i := i) (w := { x with dyn := { x.dyn with heldTrigger := false } }) (by simp [State.withWatchAt])
      { x with dyn := { x.dyn with heldTrigger := false } }
    exact ⟨w', hw', hg.defn, hg.due, hg.overruns⟩
  · rw [State.serviceHeld_of_not_waits (not_exists.mp hx)]
    exact ⟨w, hw, .refl w⟩

/-- A serviced watch has begun its work, or has counted an overrun. -/
theorem State.serviceHeld_waiting (h : s.Waits i w) :
    let w' : Watch := { w with dyn := { w.dyn with heldTrigger := false } }
    ((s.serviceHeld i).entry i).watch = some w' ∧ ((s.serviceHeld i).entry i).activity ≠ .none ∨
      (s.serviceHeld i).entry i = { s.entry i with
        watch := some { w' with dyn := { w'.dyn with overruns := min 255 (w'.dyn.overruns + 1) } } } := by
  intro w'
  have hentry : (s.withWatchAt i w').entry i = { s.entry i with watch := some w' } := by simp [State.withWatchAt]
  obtain ⟨htiming, hlevel⟩ := State.startRequest_entry_idle (s := s.withWatchAt i w') (i := i) (w := w')
    (by rw [hentry]) (by rw [hentry]; exact h.2.2.2)
  rw [State.serviceHeld_of_waits h]
  rw [hentry] at htiming hlevel
  cases hm : w'.defn.contract.measure with
  | level n r d =>
    rcases hlevel n r d hm with hx | hx
    · exact .inl (by rw [hx]; exact ⟨rfl, nofun⟩)
    · exact .inr hx
  | timing k n pol span =>
    left
    rcases htiming k n pol span hm with hx | hx <;> rw [hx] <;> exact ⟨rfl, nofun⟩

/-- An expiry reschedules its watch, and counts the late overrun (R50). -/
theorem State.expire_grown {n : Nat} {due : DeviceTime} (hs : (s.entry i).state = .armed) (hw : (s.entry i).watch = some w)
    (hstart : w.defn.contract.start = .interval n) (hdue : w.dyn.due = some due) (l : Lateness) :
    ∃ w', ((s.expire i l).entry i).watch = some w' ∧ w'.defn = w.defn ∧
      w'.dyn.due = some ((if l = .late then s.now else due) + BitVec.ofNat 32 (n * 10)) ∧
      (l = .late → min 255 (w.dyn.overruns + 1) ≤ w'.dyn.overruns) := by
  have hleave : ((s.leaveDueList i).entry i).watch = some { w with dyn := { w.dyn with due := none } } := by
    rw [State.leaveDueList_of_watch hw]
    exact congrArg Entry.watch ((State.entry_setEntry s i i _).trans (if_pos rfl))
  have hjoin := State.joinDueList_watch hleave
  by_cases hl : l = .late
  · subst hl
    generalize hu : (s.leaveDueList i).joinDueList i (s.now + BitVec.ofNat 32 (n * 10)) = u
    have hw1 := hjoin (s.now + BitVec.ofNat 32 (n * 10))
    rw [hu] at hw1
    have hover := State.afterOverrun_entry u i { w with dyn := { w.dyn with due := some (s.now + BitVec.ofNat 32 (n * 10)) } }
    rw [← State.countOverrun_of_watch hw1] at hover
    obtain ⟨w', hw', hg⟩ := State.startRequest_grown hover { w with dyn := { w.dyn with
      due := some (s.now + BitVec.ofNat 32 (n * 10)), overruns := min 255 (w.dyn.overruns + 1) } }
    refine ⟨w', ?_, hg.defn, hg.due, fun _ => le_trans (by simp) hg.overruns⟩
    rw [← hw']
    simp only [State.expire, hs, hw, hstart, hdue, if_true, intervalUnits, Config.unitsPerInterval, hu, hover]
  · generalize hu : (s.leaveDueList i).joinDueList i (due + BitVec.ofNat 32 (n * 10)) = u
    have hw1 := hjoin (due + BitVec.ofNat 32 (n * 10))
    rw [hu] at hw1
    obtain ⟨w', hw', hg⟩ := State.startRequest_grown hw1 { w with dyn := { w.dyn with
      due := some (due + BitVec.ofNat 32 (n * 10)) } }
    refine ⟨w', ?_, hg.defn, by rw [if_neg hl]; exact hg.due, fun h => absurd h hl⟩
    rw [← hw']
    simp only [State.expire, hs, hw, hstart, hdue, if_neg hl, intervalUnits, Config.unitsPerInterval, hu, hw1]

end

/-! ### Converters: the work enters requests in the queues, and touches nothing else of them -/

/-- A converter with its queue blanked. -/
def Converter.unqueued (v : Converter) : Converter := { v with queue := [] }

section
variable (s : State) (i : EntryIndex) (c : ConverterId)

theorem Converter.eq_of_unqueued {v v' : Converter} (h : v'.unqueued = v.unqueued) : { v' with queue := v.queue } = v :=
  congrArg (fun x : Converter => { x with queue := v.queue }) h

theorem State.converter_updateWatch (f : Watch → Watch) : (s.updateWatch i f).converter c = s.converter c := by
  unfold State.updateWatch
  split <;> simp

theorem State.converter_raise (cs : CauseSet) : (s.raise i cs).converter c = s.converter c := by
  unfold State.raise
  split <;> simp [State.addCauses]

theorem State.converter_countOverrun : (s.countOverrun i).converter c = s.converter c := by
  rw [State.countOverrun, State.converter_raise, State.converter_updateWatch]

theorem State.unqueued_submit (n : AnalogInput) (r : Fin 4) (d : Nat) :
    ((s.submit i n r d).1.converter c).unqueued = (s.converter c).unqueued := by
  have hset : ∀ k q, (((s.setConverter k { s.converter k with queue := q }).setActivity i .queued).converter c).unqueued =
      (s.converter c).unqueued := by
    intro k q
    rw [State.setActivity, State.setEntry_converter, State.converter_setConverter]
    split
    · rename_i h
      rw [← h]
      rfl
    · rfl
  unfold State.submit
  dsimp only
  split
  · exact hset _ _
  · split
    · exact hset _ _
    · rfl

theorem State.converter_requestEngine (m : Measurement) (x : Nat) : (s.requestEngine i m x).converter c = s.converter c := by
  unfold State.requestEngine State.assignEngine
  split
  · simp [State.setActivity]
  · cases c <;> rfl

theorem State.unqueued_startRequest (w : Watch) :
    ((s.startRequest i w).1.converter c).unqueued = (s.converter c).unqueued := by
  unfold State.startRequest State.startWork State.startByPolicy State.overrunStart
  split
  · split
    · rename_i n r d _
      have hsub := State.unqueued_submit s i c n r d
      generalize s.submit i n r d = x at hsub
      obtain ⟨t, disposition⟩ := x
      cases disposition
      case overrun => exact congrArg Converter.unqueued (State.converter_countOverrun s i c)
      all_goals exact hsub
    · exact congrArg Converter.unqueued (State.converter_requestEngine s i c _ _)
  · split
    · exact congrArg Converter.unqueued (State.converter_updateWatch s i c _)
    · exact congrArg Converter.unqueued (State.converter_countOverrun s i c)

theorem State.unqueued_serviceHeld : ((s.serviceHeld i).converter c).unqueued = (s.converter c).unqueued := by
  unfold State.serviceHeld
  split
  · rfl
  · split
    · rw [State.unqueued_startRequest, State.clearHeld, State.converter_updateWatch]
    · rfl

theorem State.unqueued_expire (l : Lateness) : ((s.expire i l).converter c).unqueued = (s.converter c).unqueued := by
  have hleave : ∀ u : State, (u.leaveDueList i).converter c = u.converter c :=
    fun u => State.converter_updateWatch u i c _
  have hjoin : ∀ (u : State) d, (u.joinDueList i d).converter c = u.converter c :=
    fun u d => State.converter_updateWatch u i c _
  unfold State.expire
  dsimp only
  split
  · split
    · split <;> split <;> simp only [State.unqueued_startRequest, State.converter_countOverrun, hjoin, hleave]
    · rw [hleave]
  · rw [hleave]

end

end Sys2Proof.Machine
end

section
/-! The resume work on a due list in order (R48, R49, R62, R64), with nothing between its claims. -/

namespace Sys2Proof.Machine

/-- The members that are behind by now, in list order (R64 step 1). -/
def State.behind (s : State) : List DueMember := (s.dueList.map s.settled).filter fun m => decide (m.lateness ≠ .onTime)

/-- Members expire one after the other (R64 step 1). -/
def State.expireAll (s : State) (ms : List DueMember) : State := ms.foldl (fun s m => s.expire m.entry m.lateness) s

/-- Every entry is serviced, in index order (R64 step 2). -/
def State.serviceAll (s : State) : State := allEntries.foldl State.serviceHeld s

theorem allEntries_nodup : allEntries.Nodup := allEntries_sorted.imp fun h => ne_of_lt h

section
variable {s : State} {i : EntryIndex} {m : DueMember}

theorem State.settled_setHold (s : State) (p : Port) (v : Bool) : (s.setHold p v).settled = s.settled := by
  cases p <;> rfl

theorem State.behind_setHold (s : State) (p : Port) (v : Bool) : (s.setHold p v).behind = s.behind := by
  rw [State.behind, State.settled_setHold, State.setHold_dueList, State.behind]

theorem State.lateness_ne_of_mem_behind (hm : m ∈ s.behind) : m.lateness ≠ .onTime := by
  simpa using (List.mem_filter.mp hm).2

theorem State.expireAll_entry {ms : List DueMember} (hd : ∀ m ∈ ms, m.entry ≠ i) (s : State) :
    (s.expireAll ms).entry i = s.entry i := by
  induction ms generalizing s with
  | nil => rfl
  | cons m ms ih =>
    rw [State.expireAll, List.foldl_cons, ← State.expireAll, ih fun x hx => hd x (List.mem_cons_of_mem m hx),
      State.expire_entry_of_ne s m.lateness (hd m List.mem_cons_self)]

theorem State.surroundings_expireAll (s : State) (ms : List DueMember) : (s.expireAll ms).surroundings = s.surroundings :=
  foldl_surroundings (fun s (m : DueMember) => State.surroundings_expire s m.entry m.lateness) ms s

theorem State.surroundings_serviceAll (s : State) : s.serviceAll.surroundings = s.surroundings :=
  foldl_surroundings State.surroundings_serviceHeld allEntries s

section
variable (h : s.DueListOk)
include h

theorem State.behind_nodup : (s.behind.map (·.entry)).Nodup :=
  h.settleLateness.once.sublist (List.filter_sublist.map _)

theorem State.lateness_of_mem_behind (hm : m ∈ s.behind) : s.settleLateness.lateness m.entry = some m.lateness :=
  State.lateness_of_mem h.settleLateness.once (List.mem_filter.mp hm).1

/-- A member of the due list is an ARMED INTERVAL watch with a due time (R48). -/
theorem State.scheduled_of_mem_behind (hm : m ∈ s.behind) : (s.entry m.entry).state = .armed ∧
    ∃ w n due, (s.entry m.entry).watch = some w ∧ w.defn.contract.start = .interval n ∧ w.dyn.due = some due := by
  have hmem := List.mem_map_of_mem (f := (·.entry)) (List.mem_filter.mp hm).1
  obtain ⟨ha, w, n, hw, hn⟩ := (h.settleLateness.exactly m.entry).mp hmem
  obtain ⟨w', hw', hd⟩ := h.settleLateness.present m.entry hmem
  obtain rfl : w = w' := Option.some.inj (hw.symm.trans hw')
  obtain ⟨due, hdue⟩ := Option.isSome_iff_exists.mp hd
  exact ⟨ha, w, n, due, hw, hn, hdue⟩

theorem State.resumeWork_nothing : s.resumeWork nothingBefore = (s.settleLateness.expireAll s.behind).serviceAll := by
  have hexpire : (s.behind.map (·.entry)).foldl (State.resumeExpiry nothingBefore) s.settleLateness =
      s.settleLateness.expireAll s.behind :=
    resumeExpiries_nothing s.behind s.settleLateness (State.behind_nodup h)
      (fun m hm => State.lateness_of_mem_behind h hm) fun m hm => State.lateness_ne_of_mem_behind hm
  show allEntries.foldl (State.resumeService nothingBefore)
    ((s.behind.map (·.entry)).foldl (State.resumeExpiry nothingBefore) s.settleLateness) = _
  rw [hexpire, State.resumeService_nothing]
  rfl

theorem State.expiriesTaken_behind :
    ExpiriesTaken s.behind s.settleLateness (s.settleLateness.expireAll s.behind) :=
  expiriesTaken_foldl s.behind s.settleLateness (State.behind_nodup h)
    fun _ hm => State.scheduled_of_mem_behind (s := s) h hm

end

/-! ### Each entry under the work -/

theorem State.serviceAll_entry (s : State) (i : EntryIndex) :
    ∃ u : State, u.entry i = s.entry i ∧ s.serviceAll.entry i = (u.serviceHeld i).entry i :=
  (foldl_view (key := id) (view := fun s => s.entry i) (fun _ _ => State.serviceHeld_entry_of_ne)
    (by simpa using allEntries_nodup) s).2 i (mem_allEntries i) rfl

theorem State.Waits.of_entry {u : State} {w : Watch} (hu : u.entry i = s.entry i) (h : s.Waits i w) : u.Waits i w := by
  rwa [State.Waits, hu]

section
variable (h : s.DueListOk) (hi : ∀ m ∈ s.behind, m.entry ≠ i)
include h hi

/-- The held trigger of a watch that was not behind is cleared with one start. -/
theorem State.resumeWork_waiting {w : Watch} (hw : s.Waits i w) :
    let w' : Watch := { w with dyn := { w.dyn with heldTrigger := false } }
    ((s.resumeWork nothingBefore).entry i).watch = some w' ∧ ((s.resumeWork nothingBefore).entry i).activity ≠ .none ∨
      (s.resumeWork nothingBefore).entry i = { s.entry i with
        watch := some { w' with dyn := { w'.dyn with overruns := min 255 (w'.dyn.overruns + 1) } } } := by
  obtain ⟨u, hu, ht⟩ := State.serviceAll_entry (s.settleLateness.expireAll s.behind) i
  replace hu : u.entry i = s.entry i := hu.trans (State.expireAll_entry hi s.settleLateness)
  rw [State.resumeWork_nothing h, ht, ← hu]
  exact State.serviceHeld_waiting (hw.of_entry hu)

theorem State.resumeWork_not_waiting (hw : ∀ w, ¬ s.Waits i w) : (s.resumeWork nothingBefore).entry i = s.entry i := by
  obtain ⟨u, hu, ht⟩ := State.serviceAll_entry (s.settleLateness.expireAll s.behind) i
  replace hu : u.entry i = s.entry i := hu.trans (State.expireAll_entry hi s.settleLateness)
  rw [State.resumeWork_nothing h, ht, State.serviceHeld_of_not_waits fun w hx => hw w (hx.of_entry hu.symm), hu]

end

/-- A member that was behind is rescheduled as its status says (R50, R51). -/
theorem State.resumeWork_behind (h : s.DueListOk) (hm : m ∈ s.behind) {w : Watch} {n : Nat} {due : DeviceTime}
    (hw : (s.entry m.entry).watch = some w) (hstart : w.defn.contract.start = .interval n) (hdue : w.dyn.due = some due) :
    ∃ w', ((s.resumeWork nothingBefore).entry m.entry).watch = some w' ∧ w'.defn = w.defn ∧
      w'.dyn.due = some ((if m.lateness = .late then s.now else due) + BitVec.ofNat 32 (n * 10)) ∧
      (m.lateness = .late → min 255 (w.dyn.overruns + 1) ≤ w'.dyn.overruns) := by
  obtain ⟨v, hv, ht⟩ := State.serviceAll_entry (s.settleLateness.expireAll s.behind) m.entry
  obtain ⟨u, hu, hexpire⟩ := (foldl_view (f := fun s (m : DueMember) => s.expire m.entry m.lateness) (key := (·.entry))
    (view := fun s => (s.entry m.entry, s.now))
    (fun u x hx => Prod.ext (State.expire_entry_of_ne u x.lateness hx)
      (congrArg State.now (State.surroundings_expire u x.entry x.lateness) :))
    (State.behind_nodup h) s.settleLateness).2 m hm rfl
  have hentry : u.entry m.entry = s.entry m.entry := congrArg Prod.fst hu
  have hnow : u.now = s.now := congrArg Prod.snd hu
  have hvu : v.entry m.entry = (u.expire m.entry m.lateness).entry m.entry := hv.trans (congrArg Prod.fst hexpire)
  obtain ⟨w', hw', hdefn, hdue', hover⟩ := State.expire_grown (s := u) (i := m.entry) (l := m.lateness)
    (by rw [hentry]; exact (State.scheduled_of_mem_behind h hm).1) (by rw [hentry]; exact hw) hstart hdue
  obtain ⟨w'', hw'', hg⟩ := State.serviceHeld_grown (s := v) (i := m.entry) (w := w') (by rw [hvu]; exact hw')
  refine ⟨w'', by rw [State.resumeWork_nothing h, ht]; exact hw'', hg.defn.trans hdefn, ?_, fun hl => ?_⟩
  · rw [hg.due, hdue', hnow]
  · have := hover hl
    have := hg.overruns
    omega

theorem State.unqueued_resumeWork (h : s.DueListOk) (c : ConverterId) :
    ((s.resumeWork nothingBefore).converter c).unqueued = (s.converter c).unqueued := by
  have hservice : ∀ (l : List EntryIndex) (u : State),
      ((l.foldl State.serviceHeld u).converter c).unqueued = (u.converter c).unqueued := by
    intro l
    induction l with
    | nil => exact fun _ => rfl
    | cons i l ih => exact fun u => (ih _).trans (State.unqueued_serviceHeld u i c)
  have hexpire : ∀ (l : List DueMember) (u : State),
      ((u.expireAll l).converter c).unqueued = (u.converter c).unqueued := by
    intro l
    induction l with
    | nil => exact fun _ => rfl
    | cons m l ih => exact fun u => (ih _).trans (State.unqueued_expire u m.entry c m.lateness)
  rw [State.resumeWork_nothing h, State.serviceAll, hservice, hexpire]
  cases c <;> rfl

/-- No member is left behind. -/
theorem State.resumeWork_onTime (h : s.DueListOk) (hh : s.isHeld = false) :
    ∀ m ∈ (s.resumeWork nothingBefore).dueList, m.lateness = .onTime := by
  intro m hm
  by_contra hl
  have hheld : (s.resumeWork nothingBefore).isHeld = false := by
    rw [State.resumeWork_nothing h, State.isHeld_eq_of_surroundings (State.surroundings_serviceAll _),
      State.isHeld_eq_of_surroundings (State.surroundings_expireAll ..)]
    exact hh
  exact (State.DueWithin.resumeWork (before := nothingBefore) (fun _ _ _ hs => hs) h).behind hheld m hm hl

end

/-! ### What comes between the claims -/

theorem State.surroundings_takeInterjection {e : Interjection} (he : isQuiet e = true) (s : State) (p : Port) :
    (s.takeInterjection p e).surroundings = s.surroundings := by
  cases e with
  | delivery source => exact State.surroundings_takeDelivery s source
  | requestStart c => exact State.surroundings_startIdle s c
  | timed | transaction | transactionEnd => cases he

/-- Deliveries and starts leave time, pins and claims alone. -/
theorem surroundings_beforeClaim (p : Port) {between : List Between} (hb : ∀ b ∈ between, isQuiet b.event = true)
    (c : Claim) (s : State) : (beforeClaim p between c s).surroundings = s.surroundings := by
  unfold beforeClaim
  have hq : ∀ e ∈ (between.filter fun b => decide (b.claim = c)).map (·.event), isQuiet e = true := by
    intro e he
    obtain ⟨b, hm, rfl⟩ := List.mem_map.mp he
    exact hb b (List.mem_filter.mp hm).1
  generalize (between.filter fun b => decide (b.claim = c)).map (·.event) = es at hq
  induction es generalizing s with
  | nil => rfl
  | cons e es ih =>
    rw [List.foldl_cons, ih _ (fun x hx => hq x (List.mem_cons_of_mem e hx)),
      State.interject_of_quiet s p c (hq e List.mem_cons_self), State.surroundings_takeInterjection (hq e List.mem_cons_self)]

theorem State.surroundings_resumeWork {before : Claim → State → State}
    (hb : ∀ c s, (before c s).surroundings = s.surroundings) (s : State) :
    (s.resumeWork before).surroundings = s.surroundings := by
  have hexpiry : ∀ s i, (State.resumeExpiry before s i).surroundings = s.surroundings := by
    intro s i
    unfold State.resumeExpiry
    dsimp only
    split <;> simp [hb]
  have hservice : ∀ s i, (State.resumeService before s i).surroundings = s.surroundings := by
    intro s i
    rw [State.resumeService, State.surroundings_serviceHeld, hb]
  show (allEntries.foldl (State.resumeService before) ((s.behind.map (·.entry)).foldl (State.resumeExpiry before)
    s.settleLateness)).surroundings = _
  rw [foldl_surroundings hservice, foldl_surroundings hexpiry]
  rfl

/-! ### The release of a claim -/

theorem State.releaseHold_of_not_last {s : State} {p : Port} (h : s.hold p = false ∨ s.hold (otherPort p) = true)
    (before : Claim → State → State) : s.releaseHold p before = s.setHold p false := by
  unfold State.releaseHold
  refine if_neg fun ⟨hp, hh⟩ => ?_
  cases p <;> simp_all [State.hold, State.setHold, State.isHeld, otherPort]

theorem State.releaseHold_of_last {s : State} {p : Port} (hp : s.hold p = true) (ho : s.hold (otherPort p) = false)
    (before : Claim → State → State) : s.releaseHold p before = (s.setHold p false).resumeWork before := by
  unfold State.releaseHold
  refine if_pos ⟨hp, ?_⟩
  cases p <;> simp_all [State.hold, State.setHold, State.isHeld, otherPort]

theorem State.isHeld_released {s : State} {p : Port} (ho : s.hold (otherPort p) = false) :
    (s.setHold p false).isHeld = false := by
  cases p <;> simp_all [State.hold, State.setHold, State.isHeld, otherPort]

theorem holdData_of_not_held {s : State} (h : s.isHeld = false) : holdData s = [0, 0] := by
  simp only [State.isHeld, Bool.or_eq_false_iff] at h
  rw [holdData, h.1, h.2]
  rfl

end Sys2Proof.Machine
end

section
/-! A FETCH ATTENTION or ATTENTION ENABLE of the other port between the claims of a RESUME (R64, R161; log 15). -/

namespace Sys2Proof.Machine

/-! ### What a port's transaction finds and leaves -/

/-- `s'` is to an attention frame of port `q` what `s` is: the port, its attention context, the entries and the address. -/
structure State.SameAt (q : Port) (s s' : State) : Prop where
  port : s'.port q = s.port q
  attention : s'.attention q = s.attention q
  entry : ∀ i, s'.entry i = s.entry i
  addressB : s'.addressB = s.addressB
  reset : s'.resetAsserted = s.resetAsserted

theorem State.SameAt.refl (q : Port) (s : State) : s.SameAt q s := ⟨rfl, rfl, fun _ => rfl, rfl, rfl⟩

theorem State.SameAt.setPort {p q : Port} (h : p ≠ q) (s : State) (v : PortState) : s.SameAt q (s.setPort p v) where
  port := by rw [State.port_setPort, if_neg h]
  attention := State.setPort_attention ..
  entry _ := State.setPort_entry ..
  addressB := by cases p <;> rfl
  reset := State.setPort_resetAsserted ..

/-- The two commands that R161 admits between the claims of the resume work. -/
def IsAttentionCommand (q : Port) (tag : Byte) (i : Instr) : Prop :=
  i = .fetchAttention q tag ∨ ∃ x, i = .attentionEnable q tag x

section
variable {q : Port} {s : State}

theorem fetchAttentionBody_same (q : Port) (s : State) : ∃ a r, ∀ s', s'.attention q = s.attention q →
    (∀ i, s'.entry i = s.entry i) → fetchAttentionBody q s' = (s'.setAttention q a, r) := by
  cases hsel : (s.attention q).select with
  | none =>
    refine ⟨s.attention q, .refuse .empty, fun s' ha _ => ?_⟩
    have hself : s'.setAttention q (s.attention q) = s' := by rw [← ha, State.setAttention_self]
    simp only [fetchAttentionBody, ha, hsel, hself]
  | some i =>
    refine ⟨(s.attention q).fetched i, .ok [byteOf i.val, byteOf (s.entry i).generation.toNat,
      (s.attention q).causes[i].setWidth 8, byteOf ((s.attention q).fetched i).members], fun s' ha he => ?_⟩
    simp only [fetchAttentionBody, ha, hsel, he]

theorem attentionEnableBody_same (q : Port) (x : Byte) (s : State) : ∃ a r, ∀ s', s'.attention q = s.attention q →
    (∀ i, s'.entry i = s.entry i) → attentionEnableBody q x s' = (s'.setAttention q a, r) := by
  cases hx : decodeSwitch x with
  | none =>
    refine ⟨s.attention q, .refuse .badParameter, fun s' ha _ => ?_⟩
    have hself : s'.setAttention q (s.attention q) = s' := by rw [← ha, State.setAttention_self]
    simp only [attentionEnableBody, hx, hself]
  | some on =>
    refine ⟨{ s.attention q with enable := on }, .ok [], fun s' ha _ => ?_⟩
    simp only [attentionEnableBody, hx, ha]

/-- A reply touches nothing but the port. -/
theorem State.reply_setPort_self (q : Port) (w : PortState) (r : Reply) :
    ∃ w', ∀ s : State, (s.setPort q w).reply q r = s.setPort q w' := by
  have hanswer : ∀ status data, ∃ w', ∀ s : State, (s.setPort q w).answer q status data = s.setPort q w' := by
    intro status data
    cases hw : w.window with
    | executing tag m => exact ⟨{ w with window := .ready ⟨status, m, tag, data⟩ }, fun s => by
        simp [State.answer, hw, State.setWindow]⟩
    | idle | receiving | ready => exact ⟨w, fun s => by simp [State.answer, hw]⟩
  cases r with
  | ok data => exact hanswer .ok data
  | refuse status => exact hanswer status []
  | later => exact ⟨w, fun _ => rfl⟩

/-- A command of a port whose block finds and leaves no more than the port's attention context. -/
theorem State.command_same (hr : s.resetAsserted = false) (hw : (s.port q).windowAtEnd.isExecuting = false)
    {body : State → State × Reply} (hb : ∃ a r, ∀ s', s'.attention q = s.attention q → (∀ i, s'.entry i = s.entry i) →
      body s' = (s'.setAttention q a, r)) (tag : Byte) (len : Nat) (valid : Bool) :
    ∃ a w, ∀ s', s.SameAt q s' → s'.command q tag len valid body = (s'.setAttention q a).setPort q w := by
  obtain ⟨a, r, hbody⟩ := hb
  cases valid with
  | false =>
    refine ⟨s.attention q, ⟨.ready ⟨.badParameter, false, tag, []⟩, .none, writeDrive q (len + 5), true, .high, 0⟩,
      fun s' hs => ?_⟩
    rw [State.command_of_not_executing (hs.reset.trans hr) (hs.port ▸ hw), ← hs.attention, State.setAttention_self]
    rfl
  | true =>
    obtain ⟨w', hreply⟩ := State.reply_setPort_self q ⟨.executing tag false, .none, writeDrive q (len + 5), true, .high, 0⟩ r
    refine ⟨a, w', fun s' hs => ?_⟩
    rw [State.command_of_not_executing (hs.reset.trans hr) (hs.port ▸ hw)]
    dsimp only
    rw [if_pos rfl, hbody _ (by rw [State.setPort_attention, hs.attention])
      (fun i => by rw [State.setPort_entry, hs.entry]), State.setAttention_setPort, hreply]

variable {tag : Byte} {i : Instr} {frame : List Byte}

theorem exec_attentionCommand_same (hi : IsAttentionCommand q tag i) (hr : s.resetAsserted = false)
    (hw : (s.port q).windowAtEnd.isExecuting = false) :
    ∃ a w, ∀ s', s.SameAt q s' → exec i s' = .next ((s'.setAttention q a).setPort q w) := by
  obtain rfl | ⟨x, rfl⟩ := hi
  · obtain ⟨a, w, h⟩ := State.command_same hr hw (fetchAttentionBody_same q s) tag 0 true
    exact ⟨a, w, fun s' hs => congrArg Host.Outcome.next (h s' hs)⟩
  · obtain ⟨a, w, h⟩ := State.command_same hr hw (attentionEnableBody_same q x s) tag 1 (decodeSwitch x).isSome
    exact ⟨a, w, fun s' hs => congrArg Host.Outcome.next (h s' hs)⟩

theorem attentionCommand_parts (hi : IsAttentionCommand q tag i) :
    ∃ code ps, commandParts i = some (q, tag, code, ps) ∧ i.asSent = i ∧ keptOutCommand i = false := by
  obtain rfl | ⟨x, rfl⟩ := hi <;> exact ⟨_, _, rfl, rfl, rfl⟩

/-- A write of an attention command's frame, however it opens, finds and leaves no more than the port and its attention
context. -/
theorem exec_requestFrame_same (hi : IsAttentionCommand q tag i) (hf : encodeFrame i = some frame) (opening : Byte)
    (s : State) : ∃ a w, ∀ s', s.SameAt q s' →
      exec (.requestFrame q (some opening) frame) s' = .next ((s'.setAttention q a).setPort q w) := by
  have hself : ∀ s', s.SameAt q s' → s'.setAttention q (s.attention q) = s' := by
    intro s' hs
    rw [← hs.attention, State.setAttention_self]
  obtain ⟨code, ps, hparts, hsent, -⟩ := attentionCommand_parts hi
  have hne : frame ≠ [] := by
    obtain ⟨check, hframe, -⟩ := frame_of_parts hparts
    obtain rfl := Option.some.inj (hf.symm.trans hframe)
    simp
  have hwriteOpening : ∀ s', s.SameAt q s' → s'.writeOpening q = s.writeOpening q := by
    intro s' hs
    cases q
    · rfl
    · simp only [State.writeOpening, hs.addressB]
  have hreadOpening : ∀ s', s.SameAt q s' → s'.readOpening q = s.readOpening q := by
    intro s' hs
    cases q
    · rfl
    · simp only [State.readOpening, hs.addressB]
  cases hr : s.resetAsserted with
  | true =>
    refine ⟨s.attention q, s.port q, fun s' hs => ?_⟩
    rw [hself s' hs, ← hs.port, State.setPort_self]
    show (if s'.resetAsserted then Host.Outcome.next s' else _) = _
    rw [hs.reset, hr, if_pos rfl]
  | false =>
    by_cases hwrite : opening = s.writeOpening q
    · subst hwrite
      cases hw : (s.port q).windowAtEnd.isExecuting with
      | true =>
        obtain ⟨t, m, hwindow⟩ : ∃ t m, ((s.port q).opened q).window = .executing t m := by
          cases hx : (s.port q).windowAtEnd <;> simp [hx, CommandWindow.isExecuting, PortState.opened] at hw ⊢
        refine ⟨s.attention q, ?_, fun s' hs => ?_⟩
        · exact ⟨.executing t true, .discarding, writeDrive q (frame.length + 1), true, sclAfterByte q, 0⟩
        · have hfeed := State.feed_executing (s := s') (p := q) (bytes := frame) hwindow rfl hne
          rw [← hwriteOpening s' hs, exec_requestFrame_open (hs.reset.trans hr), State.openTransaction_write, hs.port,
            hfeed, hself s' hs]
          simp [State.driveMore, State.drive, PortState.opened]
      | false =>
        obtain ⟨a, w, hexec⟩ := exec_attentionCommand_same hi hr hw
        refine ⟨a, { w with bus := .ignoring, scl := sclAfterByte q, stall := 0, driven := writeDrive q (frame.length + 1),
                            acknowledged := true }, fun s' hs => ?_⟩
        have ha : s'.accepts q = true := by
          rw [PortState.windowAtEnd_isExecuting] at hw
          simp [State.accepts, hs.reset, hr, hs.port, hw]
        have hframe := exec_requestFrame_of_frame hparts hf ha (by rw [hsent]; exact hexec s' hs) []
        rw [List.append_nil] at hframe
        rw [← hwriteOpening s' hs, hframe]
        simp [State.setBus, State.clockByte, State.driveMore, State.drive]
    · by_cases hread : opening = s.readOpening q
      · refine ⟨s.attention q, (s.port q).read q frame.length, fun s' hs => ?_⟩
        rw [hread, ← hreadOpening s' hs, exec_requestFrame_read (hs.reset.trans hr), hs.port, hself s' hs]
      · refine ⟨s.attention q, (s.port q).foreign q frame.length, fun s' hs => ?_⟩
        rw [exec_requestFrame_open (hs.reset.trans hr), State.openTransaction_of_foreign (by rwa [hreadOpening s' hs])
          (by rwa [hwriteOpening s' hs]), State.foreignTransaction_eq, hs.port, hself s' hs]

/-! ### The frame before a claim -/

/-- The resume work does not keep an attention command out (R64). -/
theorem State.keptOut_attentionFrame (hi : IsAttentionCommand q tag i) (hf : encodeFrame i = some frame) (opening : Byte)
    (s : State) : s.keptOut q (.transaction (some opening) frame) = false := by
  obtain ⟨code, ps, hparts, hsent, hkept⟩ := attentionCommand_parts hi
  obtain ⟨check, hframe, -, hlen, hdecode⟩ := frame_of_parts hparts
  obtain rfl := Option.some.inj (hf.symm.trans hframe)
  have hps : ps.length ≤ 40 := (commandLength_le hlen).trans (by decide)
  have hlength := frameLength_layout (code := code) (tag := tag) (check := check) (extra := []) hps
  have htake := take_layout (code := code) (tag := tag) (check := check) (ps := ps) (extra := [])
  rw [List.append_nil] at hlength htake
  have hspelled : s.spelled q (some opening) ([code, tag, BitVec.ofNat 8 ps.length] ++ ps ++ [check]) = some i := by
    unfold State.spelled
    simp only [hlength, htake, hdecode, hsent]
  rw [State.keptOut, hspelled, Option.any_some, hkept]

variable {p : Port}

/-- Before a claim of the resume work an attention frame does what it does at its port. -/
theorem interject_attentionFrame (hi : IsAttentionCommand (otherPort p) tag i) (hf : encodeFrame i = some frame)
    (opening : Byte) (c : Claim) (s : State) : ∃ a w, ∀ s', s.SameAt (otherPort p) s' →
      exec (.requestFrame (otherPort p) (some opening) frame) s' =
        .next ((s'.setAttention (otherPort p) a).setPort (otherPort p) w) ∧
      State.interject p c s' (.transaction (some opening) frame) =
        (s'.setAttention (otherPort p) a).setPort (otherPort p) w := by
  obtain ⟨a, w, h⟩ := exec_requestFrame_same hi hf opening s
  refine ⟨a, w, fun s' hs => ⟨h s' hs, ?_⟩⟩
  have hrow : execRequestFrame (otherPort p) (some opening) frame s' = _ := h s' hs
  rw [State.interject, State.keptOut_attentionFrame hi hf, Bool.and_false, if_neg Bool.false_ne_true,
    State.takeInterjection, hrow, State.atOnce, if_pos (by simp)]

theorem beforeClaim_one (p : Port) (k c : Claim) (e : Interjection) (s : State) :
    beforeClaim p [⟨k, e⟩] c s = if k = c then State.interject p c s e else s := by
  unfold beforeClaim
  split <;> rename_i h <;> simp [h]

theorem ne_otherPort (p : Port) : p ≠ otherPort p := by cases p <;> nofun

/-- The command's own port has no part in it. -/
theorem beforeClaim_attentionFrame_setPort (hi : IsAttentionCommand (otherPort p) tag i) (hf : encodeFrame i = some frame)
    (opening : Byte) (k c : Claim) (s : State) (v : PortState) :
    beforeClaim p [⟨k, .transaction (some opening) frame⟩] c (s.setPort p v) =
      (beforeClaim p [⟨k, .transaction (some opening) frame⟩] c s).setPort p v := by
  obtain ⟨a, w, h⟩ := interject_attentionFrame hi hf opening c s
  have hcomm : ((s.setPort p v).setAttention (otherPort p) a).setPort (otherPort p) w =
      ((s.setAttention (otherPort p) a).setPort (otherPort p) w).setPort p v := by cases p <;> rfl
  rw [beforeClaim_one, beforeClaim_one, (h s (.refl _ s)).2, (h _ (.setPort (ne_otherPort p) s v)).2, hcomm]
  split <;> rfl

end

end Sys2Proof.Machine
end

section
/-! RESUME (R49, R50, R62, R64, R161). -/

namespace Sys2Proof.Machine

/-- One more step before one element of a list: the work up to it, that step, and the work from it on. -/
theorem foldl_step_before {α : Type} {f g : State → α → State} {step : State → State} {a : α} {front back : List α}
    (hother : ∀ s b, b ≠ a → g s b = f s b) (hat : ∀ s, g s a = f (step s) a) (hd : (front ++ a :: back).Nodup) (s : State) :
    (front ++ a :: back).foldl g s = (a :: back).foldl f (step (front.foldl f s)) := by
  obtain ⟨-, hback, hdisjoint⟩ := List.nodup_append.mp hd
  have hfront : front.foldl g s = front.foldl f s :=
    List.foldl_ext _ _ _ fun s b hb => hother s b (hdisjoint b hb a List.mem_cons_self)
  have hrest : ∀ s, back.foldl g s = back.foldl f s := fun s =>
    List.foldl_ext _ _ _ fun s b hb => hother s b fun hba => (List.nodup_cons.mp hback).1 (hba ▸ hb)
  rw [List.foldl_append, hfront, List.foldl_cons, hat, hrest, List.foldl_cons]

section
variable {s : State} {p : Port} {e : Interjection}

theorem State.lateness_expireAll {ms : List DueMember} {i : EntryIndex} (hd : ∀ m ∈ ms, m.entry ≠ i) (s : State) :
    (s.expireAll ms).lateness i = s.lateness i := by
  induction ms generalizing s with
  | nil => rfl
  | cons m ms ih =>
    rw [State.expireAll, List.foldl_cons, ← State.expireAll, ih fun x hx => hd x (List.mem_cons_of_mem m hx),
      State.lateness_expire_of_ne s m.lateness (hd m List.mem_cons_self)]

theorem State.resumeService_of_expiry {k : EntryIndex} :
    State.resumeService (beforeClaim p [⟨.expiry k, e⟩]) = State.serviceHeld := by
  funext s i
  rw [State.resumeService, beforeClaim_one, if_neg nofun]

theorem State.resumeWork_eq (s : State) (before : Claim → State → State) : s.resumeWork before =
    allEntries.foldl (State.resumeService before)
      ((s.behind.map (·.entry)).foldl (State.resumeExpiry before) s.settleLateness) := rfl

/-- The resume work with one event before the expiry of a member. -/
theorem State.resumeWork_before_expiry (h : s.DueListOk) {front back : List DueMember} {m : DueMember}
    (hl : s.behind = front ++ m :: back)
    (hdue : ∀ u : State, (State.interject p (.expiry m.entry) u e).dueList = u.dueList) :
    s.resumeWork (beforeClaim p [⟨.expiry m.entry, e⟩]) =
      ((State.interject p (.expiry m.entry) (s.settleLateness.expireAll front) e).expireAll (m :: back)).serviceAll := by
  have hd := State.behind_nodup h
  rw [hl, List.map_append, List.map_cons] at hd
  obtain ⟨hfront, hback, hdisjoint⟩ := List.nodup_append.mp hd
  have hlate : ∀ x ∈ front ++ m :: back, s.settleLateness.lateness x.entry = some x.lateness ∧ x.lateness ≠ .onTime :=
    fun x hx => ⟨State.lateness_of_mem_behind h (hl ▸ hx), State.lateness_ne_of_mem_behind (hl ▸ hx)⟩
  have hother : ∀ (u : State) i, i ≠ m.entry → State.resumeExpiry (beforeClaim p [⟨.expiry m.entry, e⟩]) u i =
      State.resumeExpiry nothingBefore u i := by
    intro u i hi
    simp only [State.resumeExpiry, beforeClaim_one, Claim.expiry.injEq, Ne.symm hi, if_false, nothingBefore]
  have hat : ∀ u : State, State.resumeExpiry (beforeClaim p [⟨.expiry m.entry, e⟩]) u m.entry =
      State.resumeExpiry nothingBefore (State.interject p (.expiry m.entry) u e) m.entry := by
    intro u
    simp only [State.resumeExpiry, beforeClaim_one, if_true, nothingBefore]
  have hrest : ∀ x ∈ m :: back, (State.interject p (.expiry m.entry) (s.settleLateness.expireAll front) e).lateness x.entry =
      some x.lateness := by
    intro x hx
    rw [State.lateness, hdue, ← State.lateness, State.lateness_expireAll fun y hy hyx =>
      hdisjoint y.entry (List.mem_map_of_mem hy) x.entry (List.mem_map_of_mem (f := (·.entry)) hx) hyx]
    exact (hlate x (List.mem_append_right _ hx)).1
  have hexpireFront : (front.map (·.entry)).foldl (State.resumeExpiry nothingBefore) s.settleLateness =
      s.settleLateness.expireAll front :=
    resumeExpiries_nothing front _ hfront (fun x hx => (hlate x (List.mem_append_left _ hx)).1)
      fun x hx => (hlate x (List.mem_append_left _ hx)).2
  have hexpireRest := resumeExpiries_nothing (m :: back) _ hback hrest fun x hx => (hlate x (List.mem_append_right _ hx)).2
  rw [State.resumeWork_eq, hl, List.map_append, List.map_cons, foldl_step_before hother hat hd, State.resumeService_of_expiry,
    hexpireFront]
  exact congrArg State.serviceAll hexpireRest

theorem allEntries_split (j : EntryIndex) :
    allEntries = allEntries.take j.val ++ j :: allEntries.drop (j.val + 1) ∧
      allEntries.drop j.val = j :: allEntries.drop (j.val + 1) := by
  have hj : j.val < allEntries.length := by simp [allEntries]
  have hdrop : allEntries.drop j.val = j :: allEntries.drop (j.val + 1) := by
    rw [List.drop_eq_getElem_cons hj, allEntries_get hj]
  exact ⟨by rw [← hdrop, List.take_append_drop], hdrop⟩

/-- The resume work with one event before the service of an entry. -/
theorem State.resumeWork_before_service (h : s.DueListOk) (j : EntryIndex) :
    s.resumeWork (beforeClaim p [⟨.service j, e⟩]) = (allEntries.drop j.val).foldl State.serviceHeld
      (State.interject p (.service j)
        ((allEntries.take j.val).foldl State.serviceHeld (s.settleLateness.expireAll s.behind)) e) := by
  have hexpiry : State.resumeExpiry (beforeClaim p [⟨.service j, e⟩]) = State.resumeExpiry nothingBefore := by
    funext u i
    simp only [State.resumeExpiry, beforeClaim_one, reduceCtorEq, if_false, nothingBefore]
  have hother : ∀ (u : State) i, i ≠ j → State.resumeService (beforeClaim p [⟨.service j, e⟩]) u i = u.serviceHeld i := by
    intro u i hi
    rw [State.resumeService, beforeClaim_one, if_neg fun hc => hi (Claim.service.inj hc).symm]
  have hat : ∀ u : State, State.resumeService (beforeClaim p [⟨.service j, e⟩]) u j =
      (State.interject p (.service j) u e).serviceHeld j := by
    intro u
    rw [State.resumeService, beforeClaim_one, if_pos rfl]
  obtain ⟨hsplit, hdrop⟩ := allEntries_split j
  have hexpire := resumeExpiries_nothing s.behind s.settleLateness (State.behind_nodup h)
    (fun m hm => State.lateness_of_mem_behind h hm) fun m hm => State.lateness_ne_of_mem_behind hm
  rw [State.resumeWork_eq, hexpiry, hexpire, hdrop, ← State.expireAll]
  conv_lhs => rw [hsplit]
  exact foldl_step_before hother hat (hsplit ▸ allEntries_nodup) _

end

/-! ### What the interjected frame leaves for the rest of the work -/

section
variable {s : State} {p : Port} {tag : Byte} {i : Instr} {frame : List Byte}

theorem dueList_interject_attentionFrame (hi : IsAttentionCommand (otherPort p) tag i) (hf : encodeFrame i = some frame)
    (opening : Byte) (c : Claim) (u : State) :
    (State.interject p c u (.transaction (some opening) frame)).dueList = u.dueList ∧
      (∀ k, (State.interject p c u (.transaction (some opening) frame)).entry k = u.entry k) ∧
      (State.interject p c u (.transaction (some opening) frame)).isHeld = u.isHeld ∧
      exec (.requestFrame (otherPort p) (some opening) frame) u =
        .next (State.interject p c u (.transaction (some opening) frame)) := by
  obtain ⟨a, w, h⟩ := interject_attentionFrame hi hf opening c u
  obtain ⟨hx, hj⟩ := h u (.refl _ u)
  rw [hx, hj]
  simp

end

end Sys2Proof.Machine
end

section
/-! RESUME settled (R49, R50, R62, R64, R161). -/

namespace Sys2Proof.Machine

section
variable {s : State} {p : Port}

/-- Where the last claim is cleared, RESUME answers with no claim set and leaves the resume work. -/
theorem answers_resume_last {s' : State} {between : List Between} (ha : s.accepts p = true) (hp : s.hold p = true)
    (ho : s.hold (otherPort p) = false)
    (hb : ∀ u v c, beforeClaim p between c (State.setPort u p v) = (beforeClaim p between c u).setPort p v)
    (hs : (s.setHold p false).resumeWork (beforeClaim p between) = s') (hh : s'.isHeld = false) (tag : Byte)
    (own : List OwnTransaction) :
    ∃ t, exec (.resume p ⟨tag, between, own⟩) s = .next t ∧
      (t.port p).window = .ready ⟨.ok, decide (OwnTransaction.write ∈ own), tag, [0, 0]⟩ ∧
      t.setPort p (s'.port p) = s' := by
  rw [← holdData_of_not_held hh]
  refine answers_resume ha (fun v => ?_) tag own
  rw [State.releaseHold_setPort _ _ _ p fun u c => hb u v c, State.releaseHold_of_last hp ho, hs]

/-- With deliveries and starts between the claims (R64): time, pins and claims stand. -/
theorem answers_resume_quiet {between : List Between} (ha : s.accepts p = true) (hp : s.hold p = true)
    (ho : s.hold (otherPort p) = false) (hb : ∀ b ∈ between, isQuiet b.event = true) (tag : Byte) :
    ∃ t : State, (∀ own, ∃ u, exec (.resume p ⟨tag, between, own⟩) s = .next u ∧
      (u.port p).window = .ready ⟨.ok, decide (OwnTransaction.write ∈ own), tag, [0, 0]⟩ ∧ u.setPort p (t.port p) = t) ∧
      t.surroundings = (s.setHold p false).surroundings := by
  have hsame := State.surroundings_resumeWork (surroundings_beforeClaim p hb) (s.setHold p false)
  refine ⟨_, answers_resume_last ha hp ho (fun u v c => beforeClaim_setPort u p v p hb c) rfl ?_ tag, hsame⟩
  exact (State.isHeld_eq_of_surroundings hsame).trans (State.isHeld_released ho)

section
variable {q : Port} {tag tag' : Byte} {i : Instr} {frame : List Byte} (ha : s.accepts p = true) (hp : s.hold p = true)
  (ho : s.hold (otherPort p) = false) (hd : (s.setHold p false).DueListOk) (hi : IsAttentionCommand (otherPort p) tag' i)
  (hf : encodeFrame i = some frame) (opening : Byte)
include ha hp ho hd hi hf

/-- An attention frame before an expiry of the resume work. -/
theorem resume_frame_before_expiry {front back : List DueMember} {m : DueMember} (hl : s.behind = front ++ m :: back)
    (tag : Byte) : ∃ v v' w x : State,
      ExpiriesTaken front (s.setHold p false).settleLateness v ∧
      exec (.requestFrame (otherPort p) (some opening) frame) v = .next v' ∧ ExpiriesTaken (m :: back) v' w ∧
      ServicesTaken allEntries w x ∧
      ∀ own, ∃ t, exec (.resume p ⟨tag, [⟨.expiry m.entry, .transaction (some opening) frame⟩], own⟩) s = .next t ∧
        (t.port p).window = .ready ⟨.ok, decide (OwnTransaction.write ∈ own), tag, [0, 0]⟩ ∧
        t.setPort p (x.port p) = x := by
  have hbehind : (s.setHold p false).behind = front ++ m :: back := (State.behind_setHold s p false).trans hl
  have hnodup := State.behind_nodup hd
  rw [hbehind, List.map_append, List.nodup_append] at hnodup
  obtain ⟨hfront, hback, hdisjoint⟩ := hnodup
  have hscheduled : ∀ x ∈ front ++ m :: back, _ := fun x hx => State.scheduled_of_mem_behind hd (hbehind ▸ hx)
  generalize hv : (s.setHold p false).settleLateness.expireAll front = v
  obtain ⟨-, hentry, hheld, hexec⟩ := dueList_interject_attentionFrame hi hf opening (.expiry m.entry) v
  have hwork := State.resumeWork_before_expiry hd hbehind fun u =>
    (dueList_interject_attentionFrame hi hf opening (.expiry m.entry) u).1
  rw [hv] at hwork
  refine ⟨v, _, _, _, ?_, hexec, ?_, servicesTaken_foldl allEntries _,
    answers_resume_last ha hp ho (fun u y c => beforeClaim_attentionFrame_setPort hi hf opening _ c u y) hwork ?_ tag⟩
  · exact hv ▸ expiriesTaken_foldl front _ hfront fun x hx => hscheduled x (List.mem_append_left _ hx)
  · refine expiriesTaken_foldl (m :: back) _ hback fun x hx => ?_
    rw [hentry, ← hv, State.expireAll_entry fun y hy => hdisjoint y.entry (List.mem_map_of_mem hy) x.entry
      (List.mem_map_of_mem (f := (·.entry)) hx)]
    exact hscheduled x (List.mem_append_right _ hx)
  · rw [State.isHeld_eq_of_surroundings (State.surroundings_serviceAll _),
      State.isHeld_eq_of_surroundings (State.surroundings_expireAll ..), hheld, ← hv,
      State.isHeld_eq_of_surroundings (State.surroundings_expireAll ..)]
    exact State.isHeld_released ho

/-- An attention frame before a service of the resume work. -/
theorem resume_frame_before_service (j : EntryIndex) (tag : Byte) : ∃ v v' x : State,
    ServicesTaken (allEntries.take j.val)
      ((s.setHold p false).settleLateness.expireAll (s.setHold p false).behind) v ∧
    exec (.requestFrame (otherPort p) (some opening) frame) v = .next v' ∧
    ServicesTaken (allEntries.drop j.val) v' x ∧
    ∀ own, ∃ t, exec (.resume p ⟨tag, [⟨.service j, .transaction (some opening) frame⟩], own⟩) s = .next t ∧
      (t.port p).window = .ready ⟨.ok, decide (OwnTransaction.write ∈ own), tag, [0, 0]⟩ ∧
      t.setPort p (x.port p) = x := by
  obtain ⟨-, -, hheld, hexec⟩ := dueList_interject_attentionFrame hi hf opening (.service j)
    ((allEntries.take j.val).foldl State.serviceHeld
      ((s.setHold p false).settleLateness.expireAll (s.setHold p false).behind))
  refine ⟨_, _, _, servicesTaken_foldl _ _, hexec, servicesTaken_foldl _ _,
    answers_resume_last ha hp ho (fun u y c => beforeClaim_attentionFrame_setPort hi hf opening _ c u y)
      (State.resumeWork_before_service hd j) ?_ tag⟩
  rw [State.isHeld_eq_of_surroundings (foldl_surroundings State.surroundings_serviceHeld _ _), hheld,
    State.isHeld_eq_of_surroundings (foldl_surroundings State.surroundings_serviceHeld _ _),
    State.isHeld_eq_of_surroundings (State.surroundings_expireAll ..)]
  exact State.isHeld_released ho

end

/-- Settles O45. -/
theorem resumeDoesTheResumeWork : Obligations.ResumeDoesTheResumeWork := by
  intro s p tag ha released answers
  refine ⟨fun hlast between own => ?_, fun hp ho => ⟨fun between own => ⟨_, rfl⟩, fun between hb => ?_, fun hd => ?_⟩⟩
  · have hdata : [if p = .b ∧ s.holdA = true then (1 : Byte) else 0, if p = .a ∧ s.holdB = true then 1 else 0] =
        holdData (s.setHold p false) := by
      have hflag : ∀ b, flagByte b = if b = true then 1 else 0 := fun b => by cases b <;> rfl
      cases p <;> simp [holdData, State.setHold, hflag]
    rw [hdata]
    refine answers_resume ha (fun v => ?_) tag own
    rw [State.releaseHold_of_not_last (by simpa using hlast), State.setHold_setPort]
  · obtain ⟨t, hanswers, hsame⟩ := answers_resume_quiet ha hp ho hb tag
    refine ⟨t, hanswers, (State.isHeld_eq_of_surroundings hsame).trans (State.isHeld_released ho), ?_⟩
    have hnow := congrArg State.now hsame
    have hmicro := congrArg State.micro hsame
    have hcorrections := congrArg State.corrections hsame
    have hdins := congrArg State.dins hsame
    have hcheck := congrArg State.check hsame
    have htrg0 := State.line_eq_of_surroundings hsame .trg0
    have htrg1 := State.line_eq_of_surroundings hsame .trg1
    cases p <;> exact ⟨hnow, hmicro, hcorrections, hdins, htrg0, htrg1, hcheck⟩
  · have hreleased : released.DueListOk := hd.setHold p false
    have hbehind : released.behind = s.behind := State.behind_setHold s p false
    have hsettle : { released with dueList := s.dueList.map s.settled } = released.settleLateness := by
      cases p <;> rfl
    have hentry : ∀ i, released.entry i = s.entry i := State.setHold_entry s p false
    have hnotBehind : ∀ i, (∀ m ∈ s.behind, m.entry ≠ i) → ∀ m ∈ released.behind, m.entry ≠ i := fun i h => hbehind ▸ h
    refine ⟨s.dueList.map s.settled, released.settleLateness.expireAll released.behind, released.resumeWork nothingBefore,
      State.settled_spec s, ?_⟩
    intro late
    have hlate : late = released.behind := hbehind.symm
    rw [hsettle, hlate]
    have hheld : (released.resumeWork nothingBefore).isHeld = false :=
      (State.isHeld_eq_of_surroundings (State.surroundings_resumeWork (fun _ _ => rfl) released)).trans
        (State.isHeld_released ho)
    refine ⟨State.expiriesTaken_behind hreleased, ?_, answers_resume_last (between := []) ha hp ho (fun _ _ _ => rfl) rfl hheld tag,
      State.resumeWork_onTime hreleased (State.isHeld_released ho), fun m hm w n d hw hn hdue => ?_,
      fun i w hw hi => ?_, fun i hi hw => ?_, fun c => ?_, fun i tag' frame hi hf => ?_⟩
    · rw [State.resumeWork_nothing hreleased]
      exact servicesTaken_foldl allEntries _
    · obtain ⟨w', hw', hdefn, hdue', hover⟩ := State.resumeWork_behind hreleased hm ((congrArg Entry.watch (hentry _)).trans hw)
        hn hdue
      refine ⟨w', hw', hdefn, fun hl => ?_, fun hl => ⟨?_, hover hl⟩⟩
      · rw [hdue', hl]
        rfl
      · rw [hdue', hl]
        cases p <;> rfl
    · rw [← hentry]
      exact State.resumeWork_waiting hreleased hi (hw.of_entry (hentry i))
    · rw [← hentry]
      exact State.resumeWork_not_waiting hreleased hi fun w hx => hw w (hx.of_entry (hentry i).symm)
    · refine Converter.eq_of_unqueued ((State.unqueued_resumeWork hreleased c).trans ?_)
      rw [State.setHold_converter]
    · exact ⟨fun front m back hl => resume_frame_before_expiry ha hp ho hreleased hi hf _ (hbehind ▸ hl) tag,
        fun j => resume_frame_before_service ha hp ho hreleased hi hf _ j tag⟩

end

end Sys2Proof.Machine
end

section
/-! What the operations of a retirement touch (R37 to R41): one owned entry, free engines, the wait list and the queues. -/

namespace Sys2Proof.Machine

/-- The watch of entry `i`, if it carries one, is port `p`'s. -/
def State.OwnedAt (s : State) (p : Port) (i : EntryIndex) : Prop := ∀ w, (s.entry i).watch = some w → w.defn.owner = p

/-- `t` is `s` after work on the watch of entry `i`, which is port `p`'s: it may have joined or left the due list, the wait list
and the queues, and have taken a FREE engine. -/
structure State.ActsAt (p : Port) (i : EntryIndex) (s t : State) : Prop where
  owned : t.OwnedAt p i
  surroundings : t.surroundings = s.surroundings
  attention : t.attention (otherPort p) = s.attention (otherPort p)
  entry : ∀ k, i ≠ k → t.entry k = s.entry k
  due : (t.dueList.filter fun m => decide (m.entry ≠ i)) = s.dueList.filter fun m => decide (m.entry ≠ i)
  listed : (t.waitList.filter fun j => decide (j ≠ i)) = s.waitList.filter fun j => decide (j ≠ i)
  engine : ∀ e, (s.engine e).state ≠ .free → t.engine e = s.engine e
  reserved : ∀ e, (t.engine e).state = .reserved → t.engine e = s.engine e
  unqueued : ∀ c, (t.converter c).unqueued = (s.converter c).unqueued

section
variable {p : Port} {i : EntryIndex} {s t u : State}

theorem State.ActsAt.refl (h : s.OwnedAt p i) : s.ActsAt p i s :=
  ⟨h, rfl, rfl, fun _ _ => rfl, rfl, rfl, fun _ _ => rfl, fun _ _ => rfl, fun _ => rfl⟩

theorem State.ActsAt.trans (h : s.ActsAt p i t) (h' : t.ActsAt p i u) : s.ActsAt p i u where
  owned := h'.owned
  surroundings := h'.surroundings.trans h.surroundings
  attention := h'.attention.trans h.attention
  entry k hk := (h'.entry k hk).trans (h.entry k hk)
  due := h'.due.trans h.due
  listed := h'.listed.trans h.listed
  engine e he := by
    have ht := h.engine e he
    exact (h'.engine e (ht ▸ he)).trans ht
  reserved e he := by
    have hu := h'.reserved e he
    exact hu.trans (h.reserved e (hu ▸ he))
  unqueued c := (h'.unqueued c).trans (h.unqueued c)

/-- What touches neither converters, engines nor the wait list. -/
theorem State.ActsAt.of_work (hw : t.work = s.work) (hc : ∀ c, t.converter c = s.converter c)
    (hs : t.surroundings = s.surroundings) (ho : t.OwnedAt p i) (ha : t.attention (otherPort p) = s.attention (otherPort p))
    (he : ∀ k, i ≠ k → t.entry k = s.entry k)
    (hd : (t.dueList.filter fun m => decide (m.entry ≠ i)) = s.dueList.filter fun m => decide (m.entry ≠ i)) :
    s.ActsAt p i t where
  owned := ho
  surroundings := hs
  attention := ha
  entry := he
  due := hd
  listed := by rw [(State.work_congr hw).2.2]
  engine e _ := State.engine_of_work hw e
  reserved e _ := State.engine_of_work hw e
  unqueued c := congrArg Converter.unqueued (hc c)

/-! ### Changes of the entry -/

theorem State.ActsAt.setEntry (s : State) {e : Entry} (he : ∀ w, e.watch = some w → w.defn.owner = p) :
    s.ActsAt p i (s.setEntry i e) :=
  .of_work rfl (State.setEntry_converter s i e) rfl (fun w hw => he w (by simpa using hw)) (by simp)
    (fun k hk => by simp [hk]) (by simp)

theorem State.ActsAt.updateWatch (h : s.OwnedAt p i) {f : Watch → Watch} (hf : ∀ w, (f w).defn.owner = w.defn.owner) :
    s.ActsAt p i (s.updateWatch i f) := by
  cases hw : (s.entry i).watch with
  | none =>
    have hs : s.updateWatch i f = s := by simp only [State.updateWatch, hw]
    exact hs.symm ▸ .refl h
  | some w =>
    rw [State.updateWatch_of_watch hw]
    exact .setEntry s fun w' hw' => by
      cases hw'
      exact (hf w).trans (h w hw)

theorem State.ActsAt.setActivity (h : s.OwnedAt p i) (a : Activity) : s.ActsAt p i (s.setActivity i a) := .setEntry s h

theorem State.ActsAt.raise (h : s.OwnedAt p i) (cs : CauseSet) : s.ActsAt p i (s.raise i cs) := by
  refine .of_work (State.work_raise s i cs) (fun c => State.converter_raise s i c cs) (State.surroundings_raise s i cs)
    (fun w hw => h w (by simpa using hw)) ?_ (fun k _ => by simp) (by simp)
  unfold State.raise
  split
  · rfl
  · rename_i w hw
    rw [State.addCauses, State.attention_setAttention, if_neg (h w hw ▸ ne_otherPort _)]

theorem State.ActsAt.countOverrun (h : s.OwnedAt p i) : s.ActsAt p i (s.countOverrun i) :=
  have h1 := State.ActsAt.updateWatch h (f := fun w => { w with dyn := { w.dyn with overruns := min 255 (w.dyn.overruns + 1) } })
    fun _ => rfl
  h1.trans (.raise h1.owned _)

/-- The due list of another watch passes a change at entry `i` by. -/
theorem State.ActsAt.withDueList (h : s.OwnedAt p i) {l : List DueMember}
    (hl : (l.filter fun m => decide (m.entry ≠ i)) = s.dueList.filter fun m => decide (m.entry ≠ i)) :
    s.ActsAt p i { s with dueList := l } where
  owned := h
  surroundings := rfl
  attention := by cases p <;> rfl
  entry _ _ := rfl
  due := hl
  listed := rfl
  engine _ _ := rfl
  reserved _ _ := rfl
  unqueued c := by cases c <;> rfl

theorem State.ActsAt.leaveDueList (h : s.OwnedAt p i) : s.ActsAt p i (s.leaveDueList i) :=
  have h1 := State.ActsAt.updateWatch h (f := fun w => { w with dyn := { w.dyn with due := none } }) fun _ => rfl
  h1.trans (.withDueList h1.owned (by simp [List.filter_filter]))

theorem State.ActsAt.clearHeld (h : s.OwnedAt p i) : s.ActsAt p i (s.clearHeld i) := .updateWatch h fun _ => rfl

theorem State.ActsAt.removeMember (h : s.OwnedAt p i) : s.ActsAt p i (s.removeMember p i) := by
  refine .of_work (by simp) (fun c => by simp [State.removeMember]) (by simp) ?_ ?_ (fun k _ => by simp [State.removeMember])
    (by simp [State.removeMember])
  · intro w hw
    exact h w (by simpa [State.removeMember] using hw)
  · rw [State.removeMember, State.attention_setAttention, if_neg (ne_otherPort p)]

/-! ### Work that is begun -/

theorem State.ActsAt.setConverter (h : s.OwnedAt p i) (c : ConverterId) (q : List Request) :
    s.ActsAt p i (s.setConverter c { s.converter c with queue := q }) where
  owned w hw := h w (by simpa using hw)
  surroundings := State.surroundings_setConverter s rfl
  attention := by simp
  entry _ _ := by simp
  due := by simp
  listed := by simp
  engine _ _ := by simp
  reserved _ _ := by simp
  unqueued d := by
    rw [State.converter_setConverter]
    split
    · rename_i hcd
      rw [← hcd]
      rfl
    · rfl

theorem State.ActsAt.submit (h : s.OwnedAt p i) (n : AnalogInput) (r : Fin 4) (d : Nat) :
    s.ActsAt p i (s.submit i n r d).1 := by
  have hset := fun c q => State.ActsAt.setConverter (s := s) h c q
  unfold State.submit
  dsimp only
  split
  · exact (hset _ _).trans (.setActivity (hset _ _).owned _)
  · split
    · exact (hset _ _).trans (.setActivity (hset _ _).owned _)
    · exact .refl h

theorem State.freeEngine_free {e : EngineIndex} (h : s.freeEngine = some e) : (s.engine e).state = .free := by
  simpa using List.find?_some h

theorem State.ActsAt.requestEngine (h : s.OwnedAt p i) (m : Measurement) (x : Nat) :
    s.ActsAt p i (s.requestEngine i m x) := by
  unfold State.requestEngine
  split
  · rename_i e he
    have hfree := State.freeEngine_free he
    have h1 : s.ActsAt p i (s.setEngine e (Engine.assigned i m x)) :=
      { owned := h
        surroundings := rfl
        attention := by simp
        entry := fun _ _ => by simp
        due := by simp
        listed := by simp
        engine := fun f hf => by
          rw [State.engine_setEngine, if_neg fun hef : e = f => hf (hef ▸ hfree)]
        reserved := fun f hf => by
          rw [State.engine_setEngine] at hf ⊢
          split at hf
          · exact absurd hf (Engine.assigned_not_reserved i m x)
          · rename_i hef
            rw [if_neg hef]
        unqueued := fun c => by simp }
    exact h1.trans (.setActivity h1.owned _)
  · have h1 : s.ActsAt p i { s with waitList := s.waitList ++ [i] } :=
      { owned := h
        surroundings := rfl
        attention := by cases p <;> rfl
        entry := fun _ _ => rfl
        due := rfl
        listed := by simp
        engine := fun _ _ => rfl
        reserved := fun _ _ => rfl
        unqueued := fun c => by cases c <;> rfl }
    exact h1.trans (.setActivity h1.owned _)

theorem State.ActsAt.startRequest (h : s.OwnedAt p i) (w : Watch) : s.ActsAt p i (s.startRequest i w).1 := by
  unfold State.startRequest State.startWork State.startByPolicy State.overrunStart
  split
  · split
    · rename_i n r d _
      have hsub := State.ActsAt.submit h n r d
      generalize s.submit i n r d = x at hsub
      obtain ⟨t, disposition⟩ := x
      cases disposition
      case overrun => exact .countOverrun h
      all_goals exact hsub
    · exact .requestEngine h _ _
  · split
    · exact .updateWatch h fun _ => rfl
    · exact .countOverrun h

theorem State.ActsAt.completeHeld (h : s.OwnedAt p i) : s.ActsAt p i (s.completeHeld i) := by
  unfold State.completeHeld
  split
  · exact .refl h
  · unfold State.serviceHeld
    split
    · exact .refl h
    · split
      · exact (State.ActsAt.clearHeld h).trans (.startRequest (State.ActsAt.clearHeld h).owned _)
      · exact .refl h

theorem State.ActsAt.endOnce (h : s.OwnedAt p i) : s.ActsAt p i (s.endOnce i) :=
  have h1 := (State.ActsAt.leaveDueList h).trans (.clearHeld (State.ActsAt.leaveDueList h).owned)
  h1.trans (.setEntry _ h1.owned)

/-- A delivery is work on its watch alone. -/
theorem State.ActsAt.deliver (h : s.OwnedAt p i) (o : Delivered) : s.ActsAt p i (s.deliver i o) := by
  unfold State.deliver
  dsimp only
  split
  · refine .setEntry s fun w hw => ?_
    cases hw
  · rename_i w _ hw
    refine .setEntry s fun w' hw' => ?_
    cases hw'
    exact h w hw
  · rename_i w _ hw
    have hown : (w.deliver o s.now).1.defn.owner = p := (Watch.deliver_keeps w o s.now).2.1.trans (h w hw)
    unfold State.deliverArmed
    dsimp only
    generalize w.deliver o s.now = d at hown
    have h1 : s.ActsAt p i (s.setEntry i { s.entry i with activity := .none, watch := some d.1 }) :=
      .setEntry s fun w' hw' => (Option.some.inj hw') ▸ hown
    generalize s.setEntry i { s.entry i with activity := .none, watch := some d.1 } = s1 at h1
    have h2 := h1.trans (.raise h1.owned d.2)
    generalize s1.raise i d.2 = s2 at h2
    split
    · have h3 := h2.trans (.endOnce h2.owned)
      exact h3.trans (.completeHeld h3.owned)
    · exact h2.trans (.completeHeld h2.owned)
  · exact .refl h

/-! ### Work that is let go -/

theorem State.ActsAt.unsubscribe (h : s.OwnedAt p i) : s.ActsAt p i (s.unsubscribe i) where
  owned := h
  surroundings := rfl
  attention := by cases p <;> rfl
  entry _ _ := rfl
  due := rfl
  listed := rfl
  engine _ _ := rfl
  reserved _ _ := rfl
  unqueued c := by cases c <;> rfl

theorem State.ActsAt.leaveWaitList (h : s.OwnedAt p i) : s.ActsAt p i (s.leaveWaitList i) where
  owned := h
  surroundings := rfl
  attention := by cases p <;> rfl
  entry _ _ := rfl
  due := rfl
  listed := by simp [State.leaveWaitList, List.filter_filter]
  engine _ _ := rfl
  reserved _ _ := rfl
  unqueued c := by cases c <;> rfl

/-- A watch that RETIRE has taken off the due list, out of the attention set and out of waiting. -/
def State.withdrawn (s : State) (p : Port) (i : EntryIndex) : State :=
  (((s.leaveDueList i).removeMember p i).clearHeld i).updateWatch i fun w => { w with dyn := { w.dyn with swapPending := false } }

theorem State.ActsAt.withdrawn (h : s.OwnedAt p i) : s.ActsAt p i (s.withdrawn p i) :=
  have h1 := State.ActsAt.leaveDueList h
  have h2 := h1.trans (.removeMember h1.owned)
  have h3 := h2.trans (.clearHeld h2.owned)
  h3.trans (.updateWatch h3.owned fun _ => rfl)

end

end Sys2Proof.Machine
end

section
/-! One retirement of PORT RESET (R41, R130 to R132): what it leaves of the watches of others and of their work. -/

namespace Sys2Proof.Machine

/-! ### Retirements as work on the watches of `O` -/

/-- `t` is `s` after work on watches that are in `O`, all of them port `p`'s: another watch may have taken an engine from the wait
list, and an engine that measures for another watch goes on. -/
structure State.WorksAt (p : Port) (O : EntryIndex → Bool) (s t : State) : Prop where
  surroundings : t.surroundings = s.surroundings
  attention : t.attention (otherPort p) = s.attention (otherPort p)
  entry : ∀ j, O j = false → t.entry j = s.entry j ∨ j ∈ s.waitList ∧
    ((s.entry j).watch.bind Watch.measurement).isSome = true ∧ t.entry j = { s.entry j with activity := .measuring }
  listed : ∀ j ∈ t.waitList, O j = false → j ∈ s.waitList
  engine : ∀ e, (s.engine e).state ≠ .free → (∀ i, (s.engine e).holder = some i → O i = false) → t.engine e = s.engine e
  reserved : ∀ e, (t.engine e).state = .reserved → t.engine e = s.engine e
  unqueued : ∀ c, (t.converter c).unqueued = (s.converter c).unqueued

section
variable {p : Port} {O : EntryIndex → Bool} {i : EntryIndex} {s t u : State}

theorem State.WorksAt.refl (p : Port) (O : EntryIndex → Bool) (s : State) : s.WorksAt p O s :=
  ⟨rfl, rfl, fun _ _ => .inl rfl, fun _ h _ => h, fun _ _ _ => rfl, fun _ _ => rfl, fun _ => rfl⟩

theorem State.WorksAt.trans (h : s.WorksAt p O t) (h' : t.WorksAt p O u) : s.WorksAt p O u where
  surroundings := h'.surroundings.trans h.surroundings
  attention := h'.attention.trans h.attention
  entry j hj := by
    rcases h'.entry j hj with hu | ⟨hl, hm, hu⟩ <;> rcases h.entry j hj with ht | ⟨hl', hm', ht⟩
    · exact .inl (hu.trans ht)
    · exact .inr ⟨hl', hm', hu.trans ht⟩
    · exact .inr ⟨h.listed j hl hj, ht ▸ hm, by rw [hu, ht]⟩
    · exact .inr ⟨hl', hm', by rw [hu, ht]⟩
  listed j hj hO := h.listed j (h'.listed j hj hO) hO
  engine e he hi := by
    have ht := h.engine e he hi
    exact (h'.engine e (ht ▸ he) (ht ▸ hi)).trans ht
  reserved e he := by
    have hu := h'.reserved e he
    exact hu.trans (h.reserved e (hu ▸ he))
  unqueued c := (h'.unqueued c).trans (h.unqueued c)

theorem State.ActsAt.worksAt (h : s.ActsAt p i t) (hi : O i = true) : s.WorksAt p O t where
  surroundings := h.surroundings
  attention := h.attention
  entry j hj := .inl (h.entry j fun hij => by simp [← hij, hi] at hj)
  listed j hj hO := by
    have hne : j ≠ i := fun hij => by simp [hij, hi] at hO
    have hmem : j ∈ t.waitList.filter fun j => decide (j ≠ i) := List.mem_filter.mpr ⟨hj, by simpa using hne⟩
    rw [h.listed] at hmem
    exact (List.mem_filter.mp hmem).1
  engine e he _ := h.engine e he
  reserved := h.reserved
  unqueued := h.unqueued

/-- An engine that held a watch of `O` is released. -/
theorem State.WorksAt.releaseEngine {e : EngineIndex} (he : (s.engine e).holder = some i) (hi : O i = true) :
    s.WorksAt p O (s.releaseEngine e) := by
  have hother : ∀ {v : Engine} {l : List EntryIndex} f, (∀ k, (s.engine f).holder = some k → O k = false) →
      ({ s with waitList := l }.setEngine e v).engine f = s.engine f := by
    intro v l f hf
    have hef : e ≠ f := by
      rintro rfl
      simp [hf i he] at hi
    rw [State.engine_setEngine, if_neg hef]
    rfl
  have hreserved : ∀ {v : Engine} {l : List EntryIndex} f, v.state ≠ .reserved →
      (({ s with waitList := l }.setEngine e v).engine f).state = .reserved →
      ({ s with waitList := l }.setEngine e v).engine f = s.engine f := by
    intro v l f hv hf
    rw [State.engine_setEngine] at hf ⊢
    split at hf
    · exact absurd hf hv
    · rename_i hef
      rw [if_neg hef]
      rfl
  have hsurroundings : (s.releaseEngine e).surroundings = s.surroundings := State.surroundings_releaseEngine s e
  obtain ⟨-, hs⟩ | ⟨passed, j, rest, m, x, hlist, -, hm, hs⟩ := s.releaseEngine_cases e
  · rw [hs] at hsurroundings ⊢
    exact
      { surroundings := hsurroundings
        attention := by cases p <;> rfl
        entry := fun k _ => .inl rfl
        listed := fun k hk => nomatch hk
        engine := fun f _ hf => hother f hf
        reserved := fun f hf => hreserved f nofun hf
        unqueued := fun c => by cases c <;> rfl }
  · rw [hs] at hsurroundings ⊢
    exact
      { surroundings := hsurroundings
        attention := by cases p <;> rfl
        entry := fun k _ => by
          have hk : ({ s with waitList := rest }.assignEngine e j m x).entry k =
              if j = k then { s.entry j with activity := .measuring } else s.entry k := State.setActivity_entry ..
          rw [hk]
          split
          · rename_i hjk
            subst hjk
            exact .inr ⟨by simp [hlist], by simp [hm], rfl⟩
          · exact .inl rfl
        listed := fun k hk _ => by
          have hk : k ∈ rest := hk
          simp [hlist, hk]
        engine := fun f _ hf => hother f hf
        reserved := fun f hf => hreserved f (Engine.assigned_not_reserved j m x) hf
        unqueued := fun c => by cases c <;> rfl }

theorem State.OwnedAt.of_owns (h : s.owns p i = true) : s.OwnedAt p i := by
  obtain ⟨w, hw, ho, -⟩ := (State.owns_iff s p i).mp h
  exact fun w' hw' => Option.some.inj (hw.symm.trans hw') ▸ ho

theorem State.OwnedAt.releaseEngine (h : s.OwnedAt p i) (e : EngineIndex) : (s.releaseEngine e).OwnedAt p i :=
  fun w hw => h w ((State.watch_of_register (State.register_releaseEngine s e) i).symm.trans hw)

/-- The engine found RESERVED for a watch holds it. -/
theorem State.holder_of_reservedFor {e : EngineIndex} (h : s.reservedFor i = some e) :
    (s.engine e).holder = some i ∧ (s.engine e).state = .reserved := by
  simpa using List.find?_some h

theorem State.holder_of_engineOf {e : EngineIndex} (h : s.engineOf i = some e) :
    (s.engine e).holder = some i ∧ (s.engine e).state ≠ .free := by
  have hfound := List.find?_some h
  simp only [Bool.and_eq_true, decide_eq_true_eq] at hfound
  exact hfound.1

theorem State.deliverFromEngine_cases {e : EngineIndex} (h : (s.engine e).holder = some i)
    (hr : (s.engine e).state = .reserved) : s.deliverFromEngine e = s ∨
      ∃ o, (s.engine e).outcome = some o ∧ s.deliverFromEngine e = (s.deliver i o).releaseEngine e := by
  cases ho : (s.engine e).outcome with
  | none => exact .inl (by simp only [State.deliverFromEngine, h, hr, ho])
  | some o => exact .inr ⟨o, rfl, by simp only [State.deliverFromEngine, h, hr, ho]⟩

/-- What a completion on its way leaves before a retirement: nothing but work of its watch, and the release of its engine. -/
theorem State.settleCompletion_cases (s : State) (i : EntryIndex) : s.settleCompletion i = s ∨
    ∃ e o, (s.engine e).holder = some i ∧ (s.engine e).state = .reserved ∧
      s.settleCompletion i = (s.deliver i o).releaseEngine e := by
  cases hr : s.reservedFor i with
  | none => exact .inl (State.settleCompletion_of_none hr)
  | some e =>
    obtain ⟨hholder, hreserved⟩ := State.holder_of_reservedFor hr
    have hsettle : s.settleCompletion i = s.deliverFromEngine e := State.settleCompletion_of_some hr
    rcases State.deliverFromEngine_cases hholder hreserved with hs | ⟨o, -, hs⟩
    · exact .inl (hsettle.trans hs)
    · exact .inr ⟨e, o, hholder, hreserved, hsettle.trans hs⟩

/-- The engine whose outcome has been delivered still holds its watch. -/
theorem State.deliver_engine_of_reserved {e : EngineIndex} (h : s.OwnedAt p i) (hr : (s.engine e).state = .reserved)
    (o : Delivered) : (s.deliver i o).engine e = s.engine e :=
  (State.ActsAt.deliver h o).engine e (by simp [hr])

theorem State.WorksAt.settleCompletion (h : s.OwnedAt p i) (hi : O i = true) :
    s.WorksAt p O (s.settleCompletion i) ∧ (s.settleCompletion i).OwnedAt p i := by
  rcases s.settleCompletion_cases i with hs | ⟨e, o, hholder, hreserved, hs⟩ <;> rw [hs]
  · exact ⟨.refl p O s, h⟩
  · have hd := State.ActsAt.deliver h o
    have hholder' : ((s.deliver i o).engine e).holder = some i := by
      rw [State.deliver_engine_of_reserved h hreserved, hholder]
    exact ⟨(hd.worksAt hi).trans (.releaseEngine hholder' hi), hd.owned.releaseEngine e⟩

theorem State.WorksAt.letGo (h : s.OwnedAt p i) (hi : O i = true) : s.WorksAt p O (s.letGo i) ∧ (s.letGo i).OwnedAt p i := by
  unfold State.letGo
  split
  · exact ⟨.refl p O s, h⟩
  · exact ⟨.refl p O s, h⟩
  · have h1 := State.ActsAt.unsubscribe h
    have h2 := h1.trans (.setActivity h1.owned .none)
    exact ⟨h2.worksAt hi, h2.owned⟩
  · have h1 := State.ActsAt.leaveWaitList h
    have h2 := h1.trans (.setActivity h1.owned .none)
    exact ⟨h2.worksAt hi, h2.owned⟩
  · have habandon : s.WorksAt p O (s.abandon i) ∧ (s.abandon i).OwnedAt p i := by
      unfold State.abandon
      split
      · exact ⟨.refl p O s, h⟩
      · rename_i e he
        exact ⟨.releaseEngine (State.holder_of_engineOf he).1 hi, h.releaseEngine e⟩
    have h2 := State.ActsAt.setActivity habandon.2 .none
    exact ⟨habandon.1.trans (h2.worksAt hi), h2.owned⟩

/-- RETIRE once the watch is withdrawn: a CONVERTING watch stays as it is, the work of any other is let go (R38, R39). -/
theorem State.retireWatch_eq (s : State) (p : Port) (i : EntryIndex) : s.retireWatch p i =
    let e := (s.withdrawn p i).entry i
    if e.activity = .converting then (s.withdrawn p i).setEntry i { e with state := .retiring, generation := e.generation + 1 }
    else ((s.withdrawn p i).letGo i).setEntry i ⟨.free, e.generation + 1, .none, none⟩ := rfl

theorem State.WorksAt.retireWatch (h : s.OwnedAt p i) (hi : O i = true) : s.WorksAt p O (s.retireWatch p i) := by
  have h1 := State.ActsAt.withdrawn h
  rw [State.retireWatch_eq]
  dsimp only
  split
  · have hretiring : (s.withdrawn p i).ActsAt p i ((s.withdrawn p i).setEntry i { (s.withdrawn p i).entry i with
        state := .retiring, generation := ((s.withdrawn p i).entry i).generation + 1 }) := .setEntry _ h1.owned
    exact (h1.worksAt hi).trans (hretiring.worksAt hi)
  · have hgo := State.WorksAt.letGo h1.owned hi
    have hfree : ((s.withdrawn p i).letGo i).ActsAt p i (((s.withdrawn p i).letGo i).setEntry i
        ⟨.free, ((s.withdrawn p i).entry i).generation + 1, .none, none⟩) := .setEntry _ fun w hw => nomatch hw
    exact ((h1.worksAt hi).trans hgo.1).trans (hfree.worksAt hi)

theorem State.WorksAt.retireOwned (hi : O i = true) (s : State) : s.WorksAt p O (State.retireOwned p s i) := by
  unfold State.retireOwned
  split
  · rename_i ho
    obtain ⟨hsettle, hown⟩ := State.WorksAt.settleCompletion (O := O) (State.OwnedAt.of_owns ho) hi
    exact hsettle.trans (.retireWatch hown hi)
  · exact .refl p O s

/-! ### What a retirement leaves of its own entry -/

theorem State.withdrawn_entry (s : State) (p : Port) (i : EntryIndex) : (s.withdrawn p i).entry i =
    { s.entry i with watch := (s.entry i).watch.map fun w =>
        { w with dyn := { w.dyn with due := none, heldTrigger := false, swapPending := false } } } := by
  cases hw : (s.entry i).watch <;> simp [State.withdrawn, State.removeMember, hw]

theorem State.retireWatch_entry_of_converting (h : (s.entry i).activity = .converting) (p : Port) :
    ((s.retireWatch p i).entry i).state = .retiring ∧ ((s.retireWatch p i).entry i).activity = .converting ∧
      ((s.retireWatch p i).entry i).generation = (s.entry i).generation + 1 ∧
      (s.retireWatch p i).waitList = s.waitList := by
  have hlist : (s.withdrawn p i).waitList = s.waitList := (State.work_congr (by simp [State.withdrawn])).2.2
  have hentry := s.withdrawn_entry p i
  rw [State.retireWatch_eq]
  dsimp only
  rw [if_pos (by rw [hentry]; exact h), State.entry_setEntry, if_pos rfl, hentry]
  exact ⟨rfl, h, rfl, hlist⟩

theorem State.retireWatch_entry_of_not_converting (h : (s.entry i).activity ≠ .converting) (p : Port) :
    (s.retireWatch p i).entry i = ⟨.free, (s.entry i).generation + 1, .none, none⟩ := by
  have hentry := s.withdrawn_entry p i
  rw [State.retireWatch_eq]
  dsimp only
  rw [if_neg (by rw [hentry]; exact h), State.entry_setEntry, if_pos rfl, hentry]

/-- A retired watch's entry is FREE, or RETIRING where it is CONVERTING (R38). -/
theorem State.retireWatch_entry (s : State) (p : Port) (i : EntryIndex) :
    (((s.retireWatch p i).entry i).state = .free ∨ ((s.retireWatch p i).entry i).state = .retiring) ∧
      ((s.retireWatch p i).entry i).generation = (s.entry i).generation + 1 := by
  by_cases hc : (s.entry i).activity = .converting
  · obtain ⟨hs, -, hg, -⟩ := State.retireWatch_entry_of_converting hc p
    exact ⟨.inr hs, hg⟩
  · have he := State.retireWatch_entry_of_not_converting hc p
    exact ⟨.inl (by rw [he]), by rw [he]⟩

theorem State.owns_of_gone (h : (s.entry i).state = .free ∨ (s.entry i).state = .retiring) (p : Port) :
    s.owns p i = false := by
  unfold State.owns Entry.addressable
  split
  · rfl
  · rcases h with h | h <;> simp [h]

theorem State.withdrawn_dueList (s : State) (p : Port) (i : EntryIndex) :
    (s.withdrawn p i).dueList = s.dueList.filter fun m => decide (m.entry ≠ i) := by
  simp [State.withdrawn, State.removeMember]

theorem State.dueList_of_register (h : t.register = s.register) : t.dueList = s.dueList := (State.register_congr h).2.1

theorem State.retireOwned_dueList (h : s.owns p i = true) :
    (State.retireOwned p s i).dueList = s.dueList.filter fun m => decide (m.entry ≠ i) := by
  have hsettle : ((s.settleCompletion i).dueList.filter fun m => decide (m.entry ≠ i)) =
      s.dueList.filter fun m => decide (m.entry ≠ i) := by
    rcases s.settleCompletion_cases i with hs | ⟨e, o, -, -, hs⟩ <;> rw [hs]
    rw [State.dueList_of_register (State.register_releaseEngine _ e)]
    exact (State.ActsAt.deliver (State.OwnedAt.of_owns h) o).due
  rw [State.retireOwned, if_pos h, State.retireWatch_eq, ← hsettle, ← State.withdrawn_dueList _ p]
  dsimp only
  split
  · rfl
  · rw [State.setEntry_dueList]
    exact State.dueList_of_register (State.register_letGo _ i)

end

end Sys2Proof.Machine
end

section
/-! The retirements of PORT RESET (R41) put together, with nothing between them. -/

namespace Sys2Proof.Machine

theorem Entry.eq_of_resting {e e' : Entry} (h : e'.resting = e.resting) :
    e'.state = e.state ∧ e'.generation = e.generation ∧ e'.watch = e.watch :=
  ⟨(congrArg Entry.state h :), (congrArg Entry.generation h :), (congrArg Entry.watch h :)⟩

section
variable {p : Port} {O : EntryIndex → Bool} {i j : EntryIndex} {s t : State}

/-- What becomes of an entry that work on the watches of `O` passes by: at most an engine from the wait list. -/
theorem State.WorksAt.resting (h : s.WorksAt p O t) (hj : O j = false) : (t.entry j).resting = (s.entry j).resting := by
  rcases h.entry j hj with ht | ⟨-, -, ht⟩ <;> rw [ht]
  rfl

theorem State.owns_of_resting (h : (t.entry j).resting = (s.entry j).resting) (p : Port) : t.owns p j = s.owns p j := by
  obtain ⟨hs, -, hw⟩ := Entry.eq_of_resting h
  rw [Bool.eq_iff_iff, State.owns_iff, State.owns_iff, hw, hs]

theorem State.retireOwned_resting_of_ne (s : State) (p : Port) (h : i ≠ j) :
    ((State.retireOwned p s i).entry j).resting = (s.entry j).resting :=
  (State.WorksAt.retireOwned (O := fun k => decide (k = i)) (by simp) s).resting (by simpa using h.symm)

theorem State.retireOwned_of_not_owned (h : s.owns p i = false) : State.retireOwned p s i = s := by
  rw [State.retireOwned, h]
  rfl

/-- Retirements one after the other. -/
def State.retireEach (s : State) (p : Port) (l : List EntryIndex) : State := l.foldl (State.retireOwned p) s

theorem State.retireEach_cons (s : State) (p : Port) (i : EntryIndex) (l : List EntryIndex) :
    s.retireEach p (i :: l) = (State.retireOwned p s i).retireEach p l := rfl

/-- An entry is still the port's, or not, when the retirements come to it. -/
theorem State.owns_retireOwned_of_not_mem {l : List EntryIndex} (hi : i ∉ l) (hj : j ∈ l) (s : State) (p : Port) :
    (State.retireOwned p s i).owns p j = s.owns p j :=
  State.owns_of_resting (State.retireOwned_resting_of_ne s p fun h : i = j => hi (h ▸ hj)) p

theorem State.WorksAt.retireEach {l : List EntryIndex} (hd : l.Nodup) (s : State)
    (hO : ∀ i ∈ l, s.owns p i = true → O i = true) : s.WorksAt p O (s.retireEach p l) := by
  induction l generalizing s with
  | nil => exact .refl p O s
  | cons i l ih =>
    obtain ⟨hi, hd⟩ := List.nodup_cons.mp hd
    have hfirst : s.WorksAt p O (State.retireOwned p s i) := by
      cases ho : s.owns p i with
      | true => exact .retireOwned (hO i List.mem_cons_self ho) s
      | false => exact (State.retireOwned_of_not_owned ho).symm ▸ .refl p O s
    exact hfirst.trans (ih hd _ fun j hj ho =>
      hO j (List.mem_cons_of_mem i hj) ((State.owns_retireOwned_of_not_mem hi hj s p) ▸ ho))

theorem State.retireEach_dueList {l : List EntryIndex} (hd : l.Nodup) (s : State) (p : Port) :
    (s.retireEach p l).dueList = s.dueList.filter fun m => !(decide (m.entry ∈ l) && s.owns p m.entry) := by
  induction l generalizing s with
  | nil => simp [State.retireEach]
  | cons i l ih =>
    obtain ⟨hi, hd⟩ := List.nodup_cons.mp hd
    have hfirst : (State.retireOwned p s i).dueList =
        s.dueList.filter fun m => !(decide (m.entry = i) && s.owns p m.entry) := by
      cases ho : s.owns p i with
      | true =>
        rw [State.retireOwned_dueList ho]
        refine List.filter_congr fun m _ => ?_
        by_cases hm : m.entry = i <;> simp [hm, ho]
      | false =>
        rw [State.retireOwned_of_not_owned ho, eq_comm, List.filter_eq_self]
        intro m _
        by_cases hm : m.entry = i <;> simp [hm, ho]
    rw [State.retireEach_cons, ih hd, hfirst, List.filter_filter]
    refine List.filter_congr fun m _ => ?_
    by_cases hm : m.entry ∈ l
    · have hne : m.entry ≠ i := fun h => hi (h ▸ hm)
      simp [hm, hne, State.owns_retireOwned_of_not_mem hi hm]
    · simp [hm]

/-! ### All of them -/

theorem State.retireAll_nothing (s : State) (p : Port) : s.retireAll p nothingBefore = s.retireEach p allEntries := by
  rw [State.retireAll, State.portRetirement_nothing, State.retireEach]

/-- The retirements before an entry, its own, and those after it. -/
theorem State.retireEach_at (s : State) (p : Port) (i : EntryIndex) :
    s.WorksAt p (fun k => decide (k ≠ i)) (s.retireEach p (allEntries.take i.val)) ∧
      (State.retireOwned p (s.retireEach p (allEntries.take i.val)) i).WorksAt p (fun k => decide (k ≠ i))
        (s.retireEach p allEntries) := by
  obtain ⟨hsplit, -⟩ := allEntries_split i
  have hd := allEntries_nodup
  rw [hsplit] at hd
  obtain ⟨hfront, hback, hdisjoint⟩ := List.nodup_append.mp hd
  obtain ⟨hi, hback⟩ := List.nodup_cons.mp hback
  refine ⟨.retireEach hfront s fun k hk _ => ?_, ?_⟩
  · simpa using hdisjoint k hk i List.mem_cons_self
  · have hall : s.retireEach p allEntries = (State.retireOwned p (s.retireEach p (allEntries.take i.val)) i).retireEach p
        (allEntries.drop (i.val + 1)) := by
      conv_lhs => rw [hsplit]
      rw [State.retireEach, List.foldl_append, List.foldl_cons]
      rfl
    rw [hall]
    refine .retireEach hback _ fun k hk _ => ?_
    simpa using fun h : k = i => hi (h ▸ hk)

/-- A port's watch is gone after its retirements, with the generation advanced (R38, R41). -/
theorem State.retireEach_gone (h : s.owns p i = true) :
    (((s.retireEach p allEntries).entry i).state = .free ∨ ((s.retireEach p allEntries).entry i).state = .retiring) ∧
      ((s.retireEach p allEntries).entry i).generation = (s.entry i).generation + 1 := by
  obtain ⟨hbefore, hafter⟩ := s.retireEach_at p i
  generalize s.retireEach p (allEntries.take i.val) = v at hbefore hafter
  have hv := hbefore.resting (j := i) (by simp)
  have hu := hafter.resting (j := i) (by simp)
  obtain ⟨hstate, hgeneration⟩ := (v.settleCompletion i).retireWatch_entry p i
  have hgv : ((v.settleCompletion i).entry i).generation = (s.entry i).generation :=
    (State.settleCompletion_generation v i i).trans (Entry.eq_of_resting hv).2.1
  have hr : State.retireOwned p v i = (v.settleCompletion i).retireWatch p i := by
    rw [State.retireOwned, State.owns_of_resting hv, if_pos h]
  rw [hr] at hu
  obtain ⟨hus, hug, -⟩ := Entry.eq_of_resting hu
  exact ⟨by rwa [hus], by rw [hug, hgeneration, hgv]⟩

theorem State.reservedFor_eq_none : s.reservedFor i = none ↔
    ∀ e, (s.engine e).holder = some i → (s.engine e).state ≠ .reserved := by
  have hmem : ∀ e : EngineIndex, e ∈ allEngines := by decide
  simp only [State.reservedFor, List.find?_eq_none, Bool.and_eq_true, decide_eq_true_eq, not_and]
  exact ⟨fun h e => h e (hmem e), fun h e _ => h e⟩

theorem State.WorksAt.reservedFor (h : s.WorksAt p O t) (hs : s.reservedFor i = none) : t.reservedFor i = none := by
  rw [State.reservedFor_eq_none] at hs ⊢
  intro e he hr
  rw [h.reserved e hr] at he hr
  exact hs e he hr

/-- A port's watch with no completion on its way keeps a current conversion, and otherwise is gone (R38, R39). -/
theorem State.retireEach_owned (h : s.owns p i = true) (hr : s.reservedFor i = none) :
    ((s.entry i).activity = .converting → i ∉ s.waitList →
      ((s.retireEach p allEntries).entry i).state = .retiring ∧
        ((s.retireEach p allEntries).entry i).activity = .converting) ∧
    ((s.entry i).activity ≠ .converting →
      (s.retireEach p allEntries).entry i = ⟨.free, (s.entry i).generation + 1, .none, none⟩) := by
  obtain ⟨hbefore, hafter⟩ := s.retireEach_at p i
  generalize s.retireEach p (allEntries.take i.val) = v at hbefore hafter
  have hvr := hbefore.resting (j := i) (by simp)
  have hv : State.retireOwned p v i = v.retireWatch p i := by
    rw [State.retireOwned, State.owns_of_resting hvr, if_pos h,
      State.settleCompletion_of_none (hbefore.reservedFor hr)]
  rw [hv] at hafter
  refine ⟨fun hc hl => ?_, fun hc => ?_⟩
  · have hve : v.entry i = s.entry i := (hbefore.entry i (by simp)).resolve_right fun hx => hl hx.1
    obtain ⟨hstate, hact, -, hlist⟩ := State.retireWatch_entry_of_converting (hve ▸ hc) p
    have hul : i ∉ (v.retireWatch p i).waitList := fun hm => hl (hbefore.listed i (hlist ▸ hm) (by simp))
    rw [(hafter.entry i (by simp)).resolve_right fun hx => hul hx.1]
    exact ⟨hstate, hact⟩
  · have hvc : (v.entry i).activity ≠ .converting := by
      rcases hbefore.entry i (by simp) with hx | ⟨-, -, hx⟩ <;> rw [hx]
      · exact hc
      · nofun
    have hgone := State.retireWatch_entry_of_not_converting hvc p
    have hg : (v.entry i).generation = (s.entry i).generation := (Entry.eq_of_resting hvr).2.1
    rw [(hafter.entry i (by simp)).resolve_right fun hx => by simp [hgone] at hx, hgone, hg]

end

end Sys2Proof.Machine
end

section
/-! The engines and queues that retirements leave to the watches of others (R90, R130, R131), where every watch is in its place. -/

namespace Sys2Proof.Machine

/-! ### The wait list -/

/-- The first watches of the wait list outside `O` have each been handed an engine, in order (R130). -/
def State.HandsOn (O : EntryIndex → Bool) (s t : State) (n : Nat) : Prop :=
  let others := s.waitList.filter fun j => !O j
  (t.waitList.filter fun j => !O j) = others.drop n ∧
    (∀ j, O j = false → j ∉ others.take n → t.entry j = s.entry j) ∧
    ∀ j ∈ others.take n, t.entry j = { s.entry j with activity := .measuring } ∧
      ∃ e w k m pol span, (s.entry j).watch = some w ∧ w.defn.contract.measure = .timing k m pol span ∧
        t.engine e = freshEngine j k m pol span

/-- Every watch of the wait list is a timing watch. -/
def State.ListTimed (s : State) : Prop := ∀ j ∈ s.waitList, ((s.entry j).watch.bind Watch.measurement).isSome = true

section
variable {p : Port} {O : EntryIndex → Bool} {i : EntryIndex} {s t u : State} {n m : Nat}

theorem State.HandsOn.refl (O : EntryIndex → Bool) (s : State) : s.HandsOn O s 0 :=
  ⟨rfl, fun _ _ _ => rfl, fun j hj => by simp at hj⟩

theorem freshEngine_not_free (i : EntryIndex) (k : TimingKind) (n : TimingInput) (pol : Polarity) (span : Nat) :
    (freshEngine i k n pol span).state ≠ .free := by
  unfold freshEngine
  dsimp only
  split <;> nofun

theorem State.HandsOn.trans (h : s.HandsOn O t n) (h' : t.HandsOn O u m) (hw : t.WorksAt p O u) :
    s.HandsOn O u (n + m) := by
  obtain ⟨hlist, hstand, htaken⟩ := h
  obtain ⟨hlist', hstand', htaken'⟩ := h'
  rw [hlist] at hlist' hstand' htaken'
  refine ⟨by rw [hlist', List.drop_drop], fun j hO hj => ?_, fun j hj => ?_⟩
  · rw [List.take_add, List.mem_append, not_or] at hj
    exact (hstand' j hO hj.2).trans (hstand j hO hj.1)
  · have hO : O j = false := by
      have := (List.mem_filter.mp (List.mem_of_mem_take hj)).2
      simpa using this
    by_cases hfirst : j ∈ (s.waitList.filter fun j => !O j).take n
    · obtain ⟨he, e, w, k, m', pol, span, hwatch, hmeasure, hengine⟩ := htaken j hfirst
      refine ⟨?_, e, w, k, m', pol, span, hwatch, hmeasure, ?_⟩
      · rcases hw.entry j hO with hu | ⟨-, -, hu⟩ <;> rw [hu, he]
      · rw [hw.engine e (by rw [hengine]; exact freshEngine_not_free j k m' pol span) (by
          rw [hengine]
          rintro _ ⟨⟩
          exact hO), hengine]
    · rw [List.take_add, List.mem_append] at hj
      have hsecond := hj.resolve_left hfirst
      obtain ⟨he, e, w, k, m', pol, span, hwatch, hmeasure, hengine⟩ := htaken' j hsecond
      have ht := hstand j hO hfirst
      exact ⟨by rw [he, ht], e, w, k, m', pol, span, by rw [← ht, hwatch], hmeasure, hengine⟩

theorem State.ActsAt.handsOn (h : s.ActsAt p i t) (hi : O i = true) : s.HandsOn O t 0 := by
  have hfilter : ∀ l : List EntryIndex, (l.filter fun j => !O j) = (l.filter fun j => decide (j ≠ i)).filter fun j => !O j := by
    intro l
    rw [List.filter_filter]
    refine List.filter_congr fun j _ => ?_
    by_cases hj : j = i
    · simp [hj, hi]
    · simp [hj]
  refine ⟨?_, fun j hO _ => h.entry j fun hij => ?_, fun j hj => by simp at hj⟩
  · rw [hfilter, h.listed, ← hfilter, List.drop_zero]
  · simp [← hij, hi] at hO

theorem State.HandsOn.releaseEngine (hl : s.ListTimed) (e : EngineIndex) : ∃ n, s.HandsOn O (s.releaseEngine e) n := by
  obtain ⟨hnone, hs⟩ | ⟨passed, j, rest, m, x, hlist, hpassed, hm, hs⟩ := s.releaseEngine_cases e <;> rw [hs]
  · have hnil : s.waitList = [] := List.eq_nil_iff_forall_not_mem.mpr fun k hk => by simpa [hnone k hk] using hl k hk
    refine ⟨0, ?_, fun _ _ _ => rfl, fun j hj => by simp at hj⟩
    show ([] : List EntryIndex).filter _ = _
    simp [hnil]
  · obtain rfl : passed = [] := List.eq_nil_iff_forall_not_mem.mpr fun k hk => by
      simpa [hpassed k hk] using hl k (by simp [hlist, hk])
    rw [List.nil_append] at hlist
    have hentry : ∀ k, ({ s with waitList := rest }.assignEngine e j m x).entry k =
        if j = k then { s.entry j with activity := .measuring } else s.entry k := fun k => State.setActivity_entry ..
    have hrest : ({ s with waitList := rest }.assignEngine e j m x).waitList = rest := rfl
    cases hO : O j with
    | true =>
      refine ⟨0, ?_, fun k hk _ => ?_, fun k hk => by simp at hk⟩
      · rw [hrest, hlist]
        simp [hO]
      · rw [hentry, if_neg]
        rintro rfl
        simp [hO] at hk
    | false =>
      have hothers : (s.waitList.filter fun k => !O k) = j :: rest.filter fun k => !O k := by simp [hlist, hO]
      refine ⟨1, ?_, fun k _ hk => ?_, fun k hk => ?_⟩
      · rw [hrest, hothers]
        rfl
      · rw [hothers] at hk
        rw [hentry, if_neg]
        rintro rfl
        simp at hk
      · rw [hothers] at hk
        obtain rfl : k = j := by simpa using hk
        obtain ⟨w, hw, hmeasure⟩ := Option.bind_eq_some_iff.mp hm
        refine ⟨by rw [hentry, if_pos rfl], e, w, ?_⟩
        cases hc : w.defn.contract.measure with
        | level => simp [Watch.measurement, hc] at hmeasure
        | timing kind n pol span =>
          rw [Watch.measurement_of_measure hc] at hmeasure
          cases hmeasure
          exact ⟨kind, n, pol, span, hw, rfl, (State.engine_setEngine _ e e _).trans (if_pos rfl)⟩

theorem State.PlacesBut.listTimed {g : Option EngineIndex} {x : Option EntryIndex} (h : s.PlacesBut g x) : s.ListTimed := by
  intro j hj
  obtain ⟨hx, ha⟩ := h.of_listed hj
  obtain ⟨m, y, hm⟩ := (h.placed j hx).1.measurement (.inl ha)
  simp [hm]

/-! ### One retirement -/

theorem State.HandsOn.settleCompletion (hs : s.PlacesBut none none) (ho : s.OwnedAt p i) (hi : O i = true) :
    ∃ n, s.HandsOn O (s.settleCompletion i) n := by
  rcases s.settleCompletion_cases i with hx | ⟨e, o, hholder, hreserved, hx⟩ <;> rw [hx]
  · exact ⟨0, .refl O s⟩
  · have hf : (s.engine e).state ≠ .free := by simp [hreserved]
    have hact : (s.entry i).activity ≠ .none := fun hn => by
      have hidle := congrArg Work.engines (hs.idle_work hn)
      rw [s.ghost_engines e] at hidle
      simp [Engine.measures, hholder, hf, oneIf, Work.none] at hidle
    have hdeliver := (hs.ghost_of_holder hholder hf).deliver (hs.placed i nofun).1 hact o
    have hacts := State.ActsAt.deliver ho o
    obtain ⟨n, hrelease⟩ := State.HandsOn.releaseEngine (O := O) hdeliver.listTimed e
    have hholder' : ((s.deliver i o).engine e).holder = some i := by
      rw [State.deliver_engine_of_reserved ho hreserved, hholder]
    exact ⟨0 + n, (hacts.handsOn hi).trans hrelease (State.WorksAt.releaseEngine (p := p) hholder' hi)⟩

theorem State.HandsOn.letGo (hl : s.ListTimed) (ho : s.OwnedAt p i) (hi : O i = true) : ∃ n, s.HandsOn O (s.letGo i) n := by
  unfold State.letGo
  split
  · exact ⟨0, .refl O s⟩
  · exact ⟨0, .refl O s⟩
  · have h1 := State.ActsAt.unsubscribe ho
    exact ⟨0, (h1.trans (.setActivity h1.owned .none)).handsOn hi⟩
  · have h1 := State.ActsAt.leaveWaitList ho
    exact ⟨0, (h1.trans (.setActivity h1.owned .none)).handsOn hi⟩
  · have habandon : ∃ n, s.HandsOn O (s.abandon i) n ∧ (s.abandon i).OwnedAt p i := by
      unfold State.abandon
      split
      · exact ⟨0, .refl O s, ho⟩
      · rename_i e he
        obtain ⟨n, hn⟩ := State.HandsOn.releaseEngine (O := O) hl e
        exact ⟨n, hn, ho.releaseEngine e⟩
    obtain ⟨n, hn, ho'⟩ := habandon
    have h2 := State.ActsAt.setActivity ho' .none
    exact ⟨n + 0, hn.trans (h2.handsOn hi) (h2.worksAt hi)⟩

theorem State.ListTimed.withdrawn (h : s.ListTimed) (p : Port) (i : EntryIndex) : (s.withdrawn p i).ListTimed := by
  intro j hj
  have hlist : (s.withdrawn p i).waitList = s.waitList := (State.work_congr (by simp [State.withdrawn])).2.2
  rw [hlist] at hj
  have hj := h j hj
  by_cases hij : i = j
  · subst hij
    rw [State.withdrawn_entry]
    cases hw : (s.entry i).watch <;> simp_all [Watch.measurement]
  · have he : (s.withdrawn p i).entry j = s.entry j := by simp [State.withdrawn, State.removeMember, hij]
    rwa [he]

theorem State.HandsOn.retireWatch (hl : s.ListTimed) (ho : s.OwnedAt p i) (hi : O i = true) :
    ∃ n, s.HandsOn O (s.retireWatch p i) n := by
  have h1 := State.ActsAt.withdrawn ho
  rw [State.retireWatch_eq]
  dsimp only
  split
  · have hretiring : (s.withdrawn p i).ActsAt p i ((s.withdrawn p i).setEntry i { (s.withdrawn p i).entry i with
        state := .retiring, generation := ((s.withdrawn p i).entry i).generation + 1 }) := .setEntry _ h1.owned
    exact ⟨0, (h1.trans hretiring).handsOn hi⟩
  · obtain ⟨n, hgo⟩ := State.HandsOn.letGo (O := O) (hl.withdrawn p i) h1.owned hi
    have hfree : ((s.withdrawn p i).letGo i).ActsAt p i (((s.withdrawn p i).letGo i).setEntry i
        ⟨.free, ((s.withdrawn p i).entry i).generation + 1, .none, none⟩) := .setEntry _ fun w hw => nomatch hw
    have hfirst := (h1.handsOn hi).trans hgo (State.WorksAt.letGo h1.owned hi).1
    exact ⟨0 + n + 0, hfirst.trans (hfree.handsOn hi) (hfree.worksAt hi)⟩

theorem State.HandsOn.retireOwned (hs : s.PlacesBut none none) (hi : s.owns p i = true → O i = true) :
    ∃ n, s.HandsOn O (State.retireOwned p s i) n := by
  cases ho : s.owns p i with
  | false => exact (State.retireOwned_of_not_owned ho).symm ▸ ⟨0, .refl O s⟩
  | true =>
    rw [State.retireOwned, if_pos ho]
    obtain ⟨n, hn⟩ := State.HandsOn.settleCompletion hs (State.OwnedAt.of_owns ho) (hi ho)
    obtain ⟨hsettle, hown⟩ := State.WorksAt.settleCompletion (State.OwnedAt.of_owns ho) (hi ho)
    obtain ⟨m, hm⟩ := State.HandsOn.retireWatch (O := O) (hs.settleCompletion i).1.listTimed hown (hi ho)
    exact ⟨n + m, hn.trans hm (.retireWatch hown (hi ho))⟩

/-- Retirements hand their engines to the watches of others in the order of the wait list. -/
theorem State.HandsOn.retireEach {l : List EntryIndex} (hd : l.Nodup) (hs : s.PlacesBut none none)
    (hO : ∀ i ∈ l, s.owns p i = true → O i = true) : ∃ n, s.HandsOn O (s.retireEach p l) n := by
  induction l generalizing s with
  | nil => exact ⟨0, .refl O s⟩
  | cons i l ih =>
    obtain ⟨hi, hd⟩ := List.nodup_cons.mp hd
    have hO' : ∀ j ∈ l, (State.retireOwned p s i).owns p j = true → O j = true := fun j hj ho =>
      hO j (List.mem_cons_of_mem i hj) ((State.owns_retireOwned_of_not_mem hi hj s p) ▸ ho)
    obtain ⟨n, hn⟩ := State.HandsOn.retireOwned hs (hO i List.mem_cons_self)
    obtain ⟨m, hm⟩ := ih hd (placesKept.retireOwned p i () s hs) hO'
    exact ⟨n + m, hn.trans hm (State.WorksAt.retireEach (p := p) hd _ hO')⟩

end

end Sys2Proof.Machine
end

section
/-! The waiting queues after the retirements of PORT RESET (R90), where every watch is in its place. -/

namespace Sys2Proof.Machine

/-! ### Watches that leave a queue -/

section
variable (g h : EntryIndex → Bool)

theorem Request.leaving_leaving (r : Request) : (r.leaving g).leaving h = r.leaving fun i => g i || h i := by
  simp only [Request.leaving, List.filter_filter]
  congr 1
  refine List.filter_congr fun i _ => ?_
  cases g i <;> simp

theorem Request.stays_or (r : Request) :
    r.stays (fun i => g i || h i) = (r.stays g && (r.leaving g).stays h) := by
  rw [Bool.eq_iff_iff]
  simp only [Request.stays, Request.leaving, Bool.or_eq_true, Bool.and_eq_true, List.isEmpty_iff, List.any_eq_true,
    Bool.not_eq_true', Bool.or_eq_false_iff, List.mem_filter, List.filter_eq_nil_iff]
  constructor
  · rintro (hnil | ⟨i, hi, hg, hh⟩)
    · exact ⟨.inl hnil, .inl (by simp [hnil])⟩
    · exact ⟨.inr ⟨i, hi, hg⟩, .inr ⟨i, ⟨hi, hg⟩, hh⟩⟩
  · rintro ⟨hnil | ⟨i, hi, hg⟩, hrest | ⟨j, ⟨hj, hgj⟩, hhj⟩⟩
    · exact .inl hnil
    · exact .inl hnil
    · exact absurd hg (hrest i hi)
    · exact .inr ⟨j, hj, hgj, hhj⟩

/-- Those that leave together leave as if one after the other. -/
theorem queueWithout_queueWithout (q : List Request) :
    queueWithout h (queueWithout g q) = queueWithout (fun i => g i || h i) q := by
  simp only [queueWithout, List.filter_map, List.map_map, List.filter_filter]
  have hstays : ∀ r ∈ q, (((Request.stays h) ∘ (Request.leaving g)) r && r.stays g) =
      Request.stays (fun i => g i || h i) r := by
    intro r _
    rw [Request.stays_or, Bool.and_comm]
    rfl
  rw [List.filter_congr hstays]
  exact List.map_congr_left fun r _ => Request.leaving_leaving g h r

theorem queueWithout_of_none {q : List Request} (hq : ∀ r ∈ q, ∀ i ∈ r.subscribers, g i = false) : queueWithout g q = q := by
  have hleaving : ∀ r ∈ q, r.leaving g = r := by
    intro r hr
    have hs : (r.subscribers.filter fun i => !g i) = r.subscribers :=
      List.filter_eq_self.mpr fun i hi => by simp [hq r hr i hi]
    rw [Request.leaving, hs]
  have hstays : ∀ r ∈ q, r.stays g = true := by
    intro r hr
    unfold Request.stays
    cases hs : r.subscribers with
    | nil => rfl
    | cons i l => simp [hq r hr i (by simp [hs])]
  rw [queueWithout, List.filter_eq_self.mpr hstays, List.map_congr_left hleaving, List.map_id']

end

/-! ### A timing watch's delivery leaves the queues -/

section
variable {s : State} {p : Port} {i : EntryIndex} {c : ConverterId}

theorem State.converter_startRequest_of_timing {w : Watch} {k : TimingKind} {n : TimingInput} {pol : Polarity} {span : Nat}
    (hm : w.defn.contract.measure = .timing k n pol span) : (s.startRequest i w).1.converter c = s.converter c := by
  unfold State.startRequest State.startWork State.startByPolicy State.overrunStart
  rw [hm]
  split
  · exact State.converter_requestEngine s i c _ _
  · split
    · exact State.converter_updateWatch s i c _
    · exact State.converter_countOverrun s i c

theorem State.converter_completeHeld_of_timing {w : Watch} {k : TimingKind} {n : TimingInput} {pol : Polarity} {span : Nat}
    (hw : (s.entry i).watch = some w) (hm : w.defn.contract.measure = .timing k n pol span) :
    (s.completeHeld i).converter c = s.converter c := by
  unfold State.completeHeld State.serviceHeld
  rw [hw]
  dsimp only
  split
  · rfl
  · split
    · refine (State.converter_startRequest_of_timing (k := k) (n := n) (pol := pol) (span := span) ?_).trans
        (State.converter_updateWatch s i c _)
      exact hm
    · rfl

theorem State.converter_endOnce (s : State) (i : EntryIndex) (c : ConverterId) : (s.endOnce i).converter c = s.converter c := by
  have hleave : (s.leaveDueList i).converter c = s.converter c := State.converter_updateWatch s i c _
  rw [State.endOnce, State.setEntry_converter, State.clearHeld, State.converter_updateWatch, hleave]

theorem State.converter_deliver_of_timing {w : Watch} {k : TimingKind} {n : TimingInput} {pol : Polarity} {span : Nat}
    (hw : (s.entry i).watch = some w) (hm : w.defn.contract.measure = .timing k n pol span) (o : Delivered) :
    (s.deliver i o).converter c = s.converter c := by
  unfold State.deliver
  dsimp only
  split
  · exact State.setEntry_converter ..
  · exact State.setEntry_converter ..
  · rename_i w' _ hw'
    obtain rfl : w = w' := Option.some.inj (hw.symm.trans hw')
    have hd : (w.deliver o s.now).1.defn.contract.measure = .timing k n pol span := by
      rw [(Watch.deliver_keeps w o s.now).1, hm]
    unfold State.deliverArmed
    dsimp only
    generalize w.deliver o s.now = d at hd
    have hbase : ∀ cs, ((s.setEntry i { s.entry i with activity := .none, watch := some d.1 }).raise i cs).converter c =
        s.converter c := fun cs => by rw [State.converter_raise, State.setEntry_converter]
    split
    · rw [State.converter_completeHeld_of_timing (w := { d.1 with dyn := { d.1.dyn with due := none, heldTrigger := false } })
        (by simp [State.endOnce]) hd, State.converter_endOnce, hbase]
    · rw [State.converter_completeHeld_of_timing (w := d.1) (by simp) hd, hbase]
  · rfl

theorem State.converter_releaseEngine (s : State) (e : EngineIndex) (c : ConverterId) :
    (s.releaseEngine e).converter c = s.converter c := by
  obtain ⟨-, hs⟩ | ⟨_, _, _, _, _, -, -, -, hs⟩ := s.releaseEngine_cases e <;> rw [hs] <;> cases c <;> rfl

/-- An engine holds a timing watch. -/
theorem State.PlacesBut.timing_of_holder {e : EngineIndex} (hs : s.PlacesBut none none) (hi : (s.engine e).holder = some i)
    (hf : (s.engine e).state ≠ .free) :
    ∃ w k n pol span, (s.entry i).watch = some w ∧ w.defn.contract.measure = .timing k n pol span := by
  have ha : (s.entry i).activity = .measuring := by
    refine Place.work_engines (p := (s.entry i).place) ?_
    have hm : (s.engine e).measures i = true := by simp [Engine.measures, hi, hf]
    rw [← (hs.placed i nofun).2, s.ghost_engines e, hm]
    simp [oneIf]
  obtain ⟨k, n, pol, span, hm⟩ := (hs.placed i nofun).1.timing (.inr ha)
  obtain ⟨w, hw, hw'⟩ := Entry.place_measure.mp hm
  exact ⟨w, k, n, pol, span, hw, hw'⟩

theorem State.PlacesBut.converter_settleCompletion (hs : s.PlacesBut none none) (i : EntryIndex) (c : ConverterId) :
    (s.settleCompletion i).converter c = s.converter c := by
  rcases s.settleCompletion_cases i with hx | ⟨e, o, hholder, hreserved, hx⟩ <;> rw [hx]
  obtain ⟨w, k, n, pol, span, hw, hm⟩ := hs.timing_of_holder hholder (by simp [hreserved])
  rw [State.converter_releaseEngine, State.converter_deliver_of_timing hw hm]

/-- A watch that is not QUEUED waits on no request. -/
theorem State.PlacesBut.not_subscribed (hs : s.PlacesBut none none) (ha : (s.entry i).activity ≠ .queued) :
    ∀ r ∈ (s.converter c).queue, i ∉ r.subscribers := by
  intro r hr hi
  have hwaits := (Work.ext_iff'.mp (hs.placed i nofun).2).1 c
  have hnone : (s.entry i).place.work.waits c = [] := by
    have hplace : (s.entry i).place.activity ≠ .queued := ha
    simp [Place.work, hplace]
  rw [hnone] at hwaits
  have hlen := congrArg List.length hwaits
  have hpos : 0 < (requestsOf i (s.converter c).queue).length := by
    rw [requestsOf_length]
    exact List.countP_pos_iff.mpr ⟨r, hr, by simpa using hi⟩
  have : (requestsOf i (s.converter c).queue).length = 0 := hlen
  omega

theorem State.converter_withdrawn (s : State) (p : Port) (i : EntryIndex) (c : ConverterId) :
    (s.withdrawn p i).converter c = s.converter c := by
  have hleave : (s.leaveDueList i).converter c = s.converter c := State.converter_updateWatch s i c _
  rw [State.withdrawn, State.converter_updateWatch, State.clearHeld, State.converter_updateWatch, State.removeMember,
    State.setAttention_converter, hleave]

theorem State.PlacesBut.queue_retireWatch (hs : s.PlacesBut none none) (p : Port) (i : EntryIndex) (c : ConverterId) :
    ((s.retireWatch p i).converter c).queue = queueWithout (fun j => decide (j = i)) (s.converter c).queue := by
  have hgone : (s.entry i).activity ≠ .queued →
      queueWithout (fun j => decide (j = i)) (s.converter c).queue = (s.converter c).queue := fun ha =>
    queueWithout_of_none _ fun r hr j hj => by
      simpa using fun hji : j = i => hs.not_subscribed ha r hr (hji ▸ hj)
  have hact : ((s.withdrawn p i).entry i).activity = (s.entry i).activity := by rw [State.withdrawn_entry]
  have hconv := s.converter_withdrawn p i c
  rw [State.retireWatch_eq]
  dsimp only
  split
  · rename_i ha
    rw [State.setEntry_converter, hconv, hgone (by rw [← hact, ha]; nofun)]
  · rw [State.setEntry_converter, ← hconv]
    rw [← hconv] at hgone
    rw [← hact] at hgone
    generalize s.withdrawn p i = u at hgone
    unfold State.letGo
    split
    · rename_i ha
      exact (hgone (by simp [ha])).symm
    · rename_i ha
      exact (hgone (by simp [ha])).symm
    · rw [State.setActivity, State.setEntry_converter, ← filterMap_without]
      cases c <;> rfl
    · rename_i ha
      rw [hgone (by simp [ha])]
      cases c <;> rfl
    · rename_i ha
      rw [hgone (by simp [ha]), State.setActivity, State.setEntry_converter]
      unfold State.abandon
      split
      · rfl
      · rw [State.converter_releaseEngine]

theorem State.PlacesBut.queue_retireOwned (hs : s.PlacesBut none none) (p : Port) (i : EntryIndex) (c : ConverterId) :
    ((State.retireOwned p s i).converter c).queue =
      queueWithout (fun j => decide (j = i) && s.owns p j) (s.converter c).queue := by
  cases ho : s.owns p i with
  | true =>
    have hgone : (fun j => decide (j = i) && s.owns p j) = fun j => decide (j = i) := by
      funext j
      by_cases hj : j = i <;> simp [hj, ho]
    rw [State.retireOwned, if_pos ho, (hs.settleCompletion i).1.queue_retireWatch, hs.converter_settleCompletion, hgone]
  | false =>
    rw [State.retireOwned_of_not_owned ho, eq_comm]
    refine queueWithout_of_none _ fun r _ j _ => ?_
    by_cases hj : j = i <;> simp [hj, ho]

/-- The retired watches leave the queues, and no other (R41, R90). -/
theorem State.PlacesBut.queue_retireEach {l : List EntryIndex} (hd : l.Nodup) (hs : s.PlacesBut none none) (p : Port)
    (c : ConverterId) : ((s.retireEach p l).converter c).queue =
      queueWithout (fun j => decide (j ∈ l) && s.owns p j) (s.converter c).queue := by
  induction l generalizing s with
  | nil => exact (queueWithout_of_none _ fun _ _ _ _ => by simp).symm
  | cons i l ih =>
    obtain ⟨hi, hd⟩ := List.nodup_cons.mp hd
    rw [State.retireEach_cons, ih hd (placesKept.retireOwned p i () s hs), hs.queue_retireOwned, queueWithout_queueWithout]
    congr 1
    funext j
    by_cases hj : j ∈ l
    · have hne : j ≠ i := fun h => hi (h ▸ hj)
      simp [hj, hne, State.owns_retireOwned_of_not_mem hi hj]
    · simp [hj]

/-! ### Watches to which an engine's completion was on its way -/

/-- Entry `i` measures `m`, where it carries a watch. -/
def State.MeasuresAt (s : State) (i : EntryIndex) (m : Measure) : Prop :=
  ∀ w, (s.entry i).watch = some w → w.defn.contract.measure = m

theorem State.MeasuresAt.updateWatch {j : EntryIndex} {m : Measure} (h : s.MeasuresAt j m) (i : EntryIndex) {f : Watch → Watch}
    (hf : ∀ w, (f w).defn.contract.measure = w.defn.contract.measure) : (s.updateWatch i f).MeasuresAt j m := by
  intro w hw
  rw [State.updateWatch_entry] at hw
  split at hw
  · rename_i hij
    subst hij
    obtain ⟨w', hw', rfl⟩ := Option.map_eq_some_iff.mp hw
    exact (hf w').trans (h w' hw')
  · exact h w hw

theorem State.MeasuresAt.of_register {t : State} {j : EntryIndex} {m : Measure} (h : s.MeasuresAt j m)
    (hr : t.register = s.register) : t.MeasuresAt j m :=
  fun w hw => h w ((State.watch_of_register hr j).symm.trans hw)

theorem State.MeasuresAt.raise {j : EntryIndex} {m : Measure} (h : s.MeasuresAt j m) (i : EntryIndex) (cs : CauseSet) :
    (s.raise i cs).MeasuresAt j m := fun w hw => h w (by simpa using hw)

/-- A start leaves what every watch measures. -/
theorem measuresStarts : StartsKept fun (j : EntryIndex × Measure) s => s.MeasuresAt j.1 j.2 where
  clearHeld i _ _ h := h.updateWatch i fun _ => rfl
  holdTrigger {_ _ i _} h _ _ := h.updateWatch i fun _ => rfl
  countOverrun {_ _ i _} h _ := by
    refine State.MeasuresAt.raise (State.MeasuresAt.updateWatch h i ?_) i _
    intro w
    rfl
  submit h _ _ _ := h.of_register (State.register_submit ..)
  requestEngine h _ _ _ := h.of_register (State.register_requestEngine ..)

theorem State.MeasuresAt.setEntry {m : Measure} {e : Entry} (he : ∀ w, e.watch = some w → w.defn.contract.measure = m) :
    (s.setEntry i e).MeasuresAt i m := fun w hw => he w (by simpa using hw)

theorem State.MeasuresAt.deliver {m : Measure} (h : s.MeasuresAt i m) (o : Delivered) : (s.deliver i o).MeasuresAt i m := by
  unfold State.deliver
  dsimp only
  split
  · refine .setEntry fun w hw => ?_
    cases hw
  · rename_i w _ hw
    refine .setEntry fun w' hw' => ?_
    cases hw'
    exact h w hw
  · rename_i w _ hw
    have hd : (w.deliver o s.now).1.defn.contract.measure = m := by rw [(Watch.deliver_keeps w o s.now).1, h w hw]
    unfold State.deliverArmed
    dsimp only
    generalize w.deliver o s.now = d at hd
    have h1 : ((s.setEntry i { s.entry i with activity := .none, watch := some d.1 }).raise i d.2).MeasuresAt i m :=
      (State.MeasuresAt.setEntry fun w' hw' => Option.some.inj hw' ▸ hd).raise i d.2
    generalize (s.setEntry i { s.entry i with activity := .none, watch := some d.1 }).raise i d.2 = s1 at h1
    refine measuresStarts.completeHeld i (i, m) _ ?_
    split
    · have hleave : (s1.leaveDueList i).MeasuresAt i m :=
        State.MeasuresAt.updateWatch h1 i (f := fun w => { w with dyn := { w.dyn with due := none } }) fun _ => rfl
      have hclear : ((s1.leaveDueList i).clearHeld i).MeasuresAt i m := hleave.updateWatch i fun _ => rfl
      exact State.MeasuresAt.setEntry hclear
    · exact h1
  · exact h

/-- A retirement frees the entry of a timing watch, whatever is on its way to it (R38, R132; log 12). -/
theorem State.PlacesBut.retireOwned_of_timing (hs : s.PlacesBut none none) (ho : s.owns p i = true) {w : Watch}
    {k : TimingKind} {n : TimingInput} {pol : Polarity} {span : Nat} (hw : (s.entry i).watch = some w)
    (hm : w.defn.contract.measure = .timing k n pol span) :
    (State.retireOwned p s i).entry i = ⟨.free, (s.entry i).generation + 1, .none, none⟩ := by
  have hmeasures : s.MeasuresAt i (.timing k n pol span) := fun w' hw' => Option.some.inj (hw.symm.trans hw') ▸ hm
  have hsettled : (s.settleCompletion i).MeasuresAt i (.timing k n pol span) := by
    rcases s.settleCompletion_cases i with hx | ⟨e, o, -, -, hx⟩ <;> rw [hx]
    · exact hmeasures
    · exact (hmeasures.deliver o).of_register (State.register_releaseEngine _ e)
  have hact : ((s.settleCompletion i).entry i).activity ≠ .converting := by
    intro ha
    obtain ⟨n', r, d, hlevel⟩ := ((hs.settleCompletion i).1.placed i nofun).1.level (.inr ha)
    obtain ⟨w', hw', hm'⟩ := Entry.place_measure.mp hlevel
    rw [hsettled w' hw'] at hm'
    cases hm'
  rw [State.retireOwned, if_pos ho, State.retireWatch_entry_of_not_converting hact, State.settleCompletion_generation]

theorem State.PlacesBut.retireEach {l : List EntryIndex} (hs : s.PlacesBut none none) (p : Port) :
    (s.retireEach p l).PlacesBut none none := Keeps.foldl (fun i => placesKept.retireOwned p i) l () s hs

/-- A port's watch to which an engine's completion was on its way is gone (R38, R132; log 12). -/
theorem State.PlacesBut.retireEach_reserved (hs : s.PlacesBut none none) (ho : s.owns p i = true)
    (hr : s.reservedFor i ≠ none) :
    (s.retireEach p allEntries).entry i = ⟨.free, (s.entry i).generation + 1, .none, none⟩ := by
  obtain ⟨hbefore, hafter⟩ := s.retireEach_at p i
  have hv := hs.retireEach (l := allEntries.take i.val) p
  generalize s.retireEach p (allEntries.take i.val) = v at hbefore hafter hv
  obtain ⟨e, he⟩ := Option.ne_none_iff_exists'.mp hr
  obtain ⟨hholder, hreserved⟩ := State.holder_of_reservedFor he
  obtain ⟨w, k, n, pol, span, hw, hm⟩ := hs.timing_of_holder hholder (by simp [hreserved])
  have hresting := hbefore.resting (j := i) (by simp)
  obtain ⟨-, hg, hwatch⟩ := Entry.eq_of_resting hresting
  have hgone := hv.retireOwned_of_timing ((State.owns_of_resting hresting p).trans ho) (hwatch.trans hw) hm
  rw [(hafter.entry i (by simp)).resolve_right fun hx => by simp [hgone] at hx, hgone, hg]

end

end Sys2Proof.Machine
end

section
/-! PORT RESET with deliveries and starts between its claims (R41, R66, R164, R184). -/

namespace Sys2Proof.Machine

/-! ### What deliveries and starts keep -/

/-- What a statement about owners, generations and attention sets comes down to for deliveries, starts and expiries. -/
structure QuietKept {ι : Type} (P : ι → State → Prop) : Prop where
  same : ∀ {j s t}, (∀ k, (t.entry k).resting = (s.entry k).resting) → (∀ q, t.attention q = s.attention q) → P j s → P j t
  watch : ∀ {j s} i (f : Watch → Watch), (∀ w, (f w).defn = w.defn) → P j s → P j (s.updateWatch i f)
  raise : ∀ {j s i w} cs, P j s → s.Armed i w → P j (s.raise i cs)
  freed : ∀ {j s i}, P j s → (s.entry i).state = .retiring →
    P j (s.setEntry i { s.entry i with state := .free, activity := .none, watch := none })
  stays : ∀ {j s i w} {e : Entry} {w' : Watch}, P j s → s.Carries i w → e.watch = some w' → w'.defn.owner = w.defn.owner →
    e.addressable = true → e.generation = (s.entry i).generation → P j (s.setEntry i e)

section
variable (s : State) (q : Port)

theorem State.attention_submit (i : EntryIndex) (n : AnalogInput) (r : Fin 4) (d : Nat) :
    (s.submit i n r d).1.attention q = s.attention q := by
  unfold State.submit
  dsimp only
  split
  · simp [State.setActivity]
  · split <;> simp [State.setActivity]

theorem State.attention_requestEngine (i : EntryIndex) (m : Measurement) (x : Nat) :
    (s.requestEngine i m x).attention q = s.attention q := by
  unfold State.requestEngine State.assignEngine
  split
  · simp [State.setActivity]
  · cases q <;> rfl

theorem State.attention_takeNext (c : ConverterId) : (s.takeNext c).attention q = s.attention q := by
  have hmark : ∀ (l : List EntryIndex) (u : State), (u.markConverting l).attention q = u.attention q := by
    intro l
    unfold State.markConverting
    induction l with
    | nil => exact fun _ => rfl
    | cons i l ih => exact fun u => (ih _).trans (by simp [State.setActivity])
  unfold State.takeNext
  dsimp only
  split
  · simp
  · rw [hmark]
    simp

theorem State.attention_releaseEngine (e : EngineIndex) : (s.releaseEngine e).attention q = s.attention q := by
  obtain ⟨-, hs⟩ | ⟨_, _, _, _, _, -, -, -, hs⟩ := s.releaseEngine_cases e <;> rw [hs] <;> cases q <;> rfl

end

namespace QuietKept

variable {ι : Type} {P : ι → State → Prop} (K : QuietKept P) {j : ι} {s t : State} {i : EntryIndex}
include K

theorem of_register (h : t.register = s.register) (ha : ∀ q, t.attention q = s.attention q) (hP : P j s) : P j t :=
  K.same (State.register_congr h).1 ha hP

theorem starts : StartsKept P where
  clearHeld i _ _ hP := K.watch i _ (fun _ => rfl) hP
  holdTrigger hP _ _ := K.watch _ _ (fun _ => rfl) hP
  countOverrun {j s i w} hP ha := by
    refine K.raise (w := { w with dyn := { w.dyn with overruns := advanceOverruns w.dyn.overruns } }) _
      (K.watch i _ (by intro w; rfl) hP) ⟨?_, ?_⟩
    · simpa using ha.state
    · simp [ha.watch]
  submit hP _ _ _ := K.of_register (State.register_submit ..) (fun q => State.attention_submit _ q _ _ _ _) hP
  requestEngine hP _ _ _ :=
    K.of_register (State.register_requestEngine ..) (fun q => State.attention_requestEngine _ q _ _ _) hP

theorem leaveDueList (i : EntryIndex) (hP : P j s) : P j (s.leaveDueList i) :=
  K.same (s := s.updateWatch i fun w => { w with dyn := { w.dyn with due := none } }) (fun _ => rfl)
    (fun q => by cases q <;> rfl) (K.watch i _ (fun _ => rfl) hP)

theorem joinDueList (i : EntryIndex) (d : DeviceTime) (hP : P j s) : P j (s.joinDueList i d) :=
  K.same (s := s.updateWatch i fun w => { w with dyn := { w.dyn with due := some d } }) (fun _ => rfl)
    (fun q => by cases q <;> rfl) (K.watch i _ (fun _ => rfl) hP)

theorem expire (i : EntryIndex) (l : Lateness) (hP : P j s) : P j (s.expire i l) :=
  K.starts.expire (fun _ => K.leaveDueList i hP) fun _ _ _ next _ _ _ => K.joinDueList i next (K.leaveDueList i hP)

theorem deliver (i : EntryIndex) (o : Delivered) (hP : P j s) : P j (s.deliver i o) := by
  unfold State.deliver
  dsimp only
  split
  · rename_i hs
    exact K.freed hP hs
  · rename_i w hs hw
    exact K.stays (w := w) hP ⟨hw, by simp [Entry.addressable, hs]⟩ rfl rfl (by simp [Entry.addressable, hs]) rfl
  · rename_i w hs hw
    have hown := (Watch.deliver_keeps w o s.now).2.1
    unfold State.deliverArmed
    refine K.starts.completeHeld i j _ ?_
    dsimp only
    generalize w.deliver o s.now = d at hown
    have h1 : P j (s.setEntry i { s.entry i with activity := .none, watch := some d.1 }) :=
      K.stays (w := w) hP ⟨hw, by simp [Entry.addressable, hs]⟩ rfl hown (by simp [Entry.addressable, hs]) rfl
    have h2 := K.raise (i := i) (w := d.1) d.2 h1 ⟨by simp [hs], by simp⟩
    split
    · have h3 := K.starts.clearHeld i j _ (K.leaveDueList i h2)
      refine K.stays (w := { d.1 with dyn := { d.1.dyn with due := none, heldTrigger := false } })
        (w' := { d.1 with dyn := { d.1.dyn with due := none, heldTrigger := false } }) h3 ⟨by simp, ?_⟩ (by simp) rfl ?_ rfl
      · simp [Entry.addressable, hs]
      · simp [Entry.addressable]
    · exact h2
  · exact hP

theorem deliverFromEngine (e : EngineIndex) (hP : P j s) : P j (s.deliverFromEngine e) := by
  unfold State.deliverFromEngine
  dsimp only
  split
  · exact K.of_register (State.register_releaseEngine ..) (fun q => State.attention_releaseEngine _ q e) (K.deliver _ _ hP)
  · exact hP

theorem takeNext (c : ConverterId) (hP : P j s) : P j (s.takeNext c) :=
  K.of_register (State.register_takeNext s c) (fun q => State.attention_takeNext s q c) hP

theorem takeDelivery (source : DeliverySource) (hP : P j s) : P j (s.takeDelivery source) := by
  cases source with
  | converter c i =>
    show P j (s.deliverFromConverter c i)
    unfold State.deliverFromConverter
    dsimp only
    split
    · split
      · have hdeliver := fun o v => K.deliver i o
          (K.of_register (s := s) (t := s.setConverter c v) (State.register_setConverter s c v) (fun q => by simp) hP)
        split
        · exact K.takeNext c (hdeliver _ _)
        · exact hdeliver _ _
      · exact hP
    · exact hP
  | engine e => exact K.deliverFromEngine e hP

/-- Deliveries and starts before a claim. -/
theorem beforeClaim (p : Port) {between : List Between} (hb : ∀ b ∈ between, isQuiet b.event = true) (c : Claim) :
    Keeps P (beforeClaim p between c) := by
  intro j s hP
  unfold Machine.beforeClaim
  have hq : ∀ e ∈ (between.filter fun b => decide (b.claim = c)).map (·.event), isQuiet e = true := by
    intro e he
    obtain ⟨b, hm, rfl⟩ := List.mem_map.mp he
    exact hb b (List.mem_filter.mp hm).1
  generalize (between.filter fun b => decide (b.claim = c)).map (·.event) = es at hq
  induction es generalizing s with
  | nil => exact hP
  | cons e es ih =>
    have hquiet := hq e List.mem_cons_self
    refine ih _ ?_ fun x hx => hq x (List.mem_cons_of_mem e hx)
    rw [State.interject_of_quiet s p c hquiet]
    cases e with
    | delivery source => exact K.takeDelivery source hP
    | requestStart c =>
      show P j (s.startIdle c)
      unfold State.startIdle
      split
      · exact K.takeNext c hP
      · exact hP
    | timed | transaction | transactionEnd => cases hquiet

theorem releaseHold (p : Port) {before : Claim → State → State} (hb : ∀ c, Keeps P (before c)) (hP : P j s) :
    P j (s.releaseHold p before) :=
  K.starts.releaseHold (fun p _ s h => K.same (fun k => by simp) (fun q => by simp) h)
    (fun _ s h => K.same (s := s) (fun _ => rfl) (fun q => by cases q <;> rfl) h) (fun h _ => K.expire _ _ h) p before hb j s hP

end QuietKept

end Sys2Proof.Machine
end

section
/-! What PORT RESET leaves of its port, whatever deliveries and starts come between its claims (R41, R66, R164, R184). -/

namespace Sys2Proof.Machine

/-- Port, entry, whether the port owns the entry's watch, and the entry's generation. -/
structure Standing where
  port : Port
  index : EntryIndex
  owned : Bool
  generation : BitVec 4

def Standing.Holds (j : Standing) (s : State) : Prop :=
  s.owns j.port j.index = j.owned ∧ (s.entry j.index).generation = j.generation

section
variable {p : Port} {i k : EntryIndex} {s t : State}

theorem Standing.Holds.of_resting {j : Standing} (h : j.Holds s)
    (hr : (t.entry j.index).resting = (s.entry j.index).resting) : j.Holds t :=
  ⟨(State.owns_of_resting hr j.port).trans h.1, (Entry.eq_of_resting hr).2.1.trans h.2⟩

theorem State.owns_setEntry_eq {e : Entry} (hg : e.generation = (s.entry i).generation)
    (ho : (s.setEntry i e).owns p i = s.owns p i) (k : EntryIndex) : (s.setEntry i e).owns p k = s.owns p k ∧
      ((s.setEntry i e).entry k).generation = (s.entry k).generation := by
  by_cases hik : i = k
  · subst hik
    exact ⟨ho, by simp [hg]⟩
  · have he : (s.setEntry i e).entry k = s.entry k := by simp [hik]
    exact ⟨State.owns_of_resting (congrArg Entry.resting he) p, by rw [he]⟩

/-- Deliveries, starts and expiries leave every watch its port and every entry its generation. -/
theorem standingKept : QuietKept Standing.Holds where
  same h _ hP := hP.of_resting (h _)
  watch i f hf hP := ⟨(State.owns_updateWatch _ i (fun w => congrArg Definition.owner (hf w)) _ _).trans hP.1,
    (State.updateWatch_generation _ i _ f).trans hP.2⟩
  raise cs hP _ := hP.of_resting (by simp)
  freed {j s i} hP hs := by
    have hgone := State.owns_of_gone (s := s) (i := i) (.inr hs) j.port
    obtain ⟨ho, hg⟩ := State.owns_setEntry_eq (s := s) (p := j.port) (i := i)
      (e := { s.entry i with state := .free, activity := .none, watch := none }) rfl
      (by rw [hgone]; exact State.owns_of_gone (.inl (by simp)) _) j.index
    exact ⟨ho.trans hP.1, hg.trans hP.2⟩
  stays {j s i w e w'} hP hc hw hown ha hg := by
    obtain ⟨ho, hg⟩ := State.owns_setEntry_eq (s := s) (p := j.port) (i := i) (e := e) hg
      (by simp [State.owns, hc.watch, hc.addressable, hw, hown, ha]) j.index
    exact ⟨ho.trans hP.1, hg.trans hP.2⟩

/-- Port `p` owns no watch, and its attention context is at its reset values. -/
def State.ClearedOf (s : State) (p : Port) : Prop := (∀ k, s.owns p k = false) ∧ s.attention p = Attention.afterReset

theorem clearedKept : QuietKept fun p s => State.ClearedOf s p where
  same h ha hP := ⟨fun k => (State.owns_of_resting (h k) _).trans (hP.1 k), (ha _).trans hP.2⟩
  watch i f hf hP := ⟨fun k => (State.owns_updateWatch _ i (fun w => congrArg Definition.owner (hf w)) _ k).trans (hP.1 k),
    (State.attention_updateWatch ..).trans hP.2⟩
  raise {p s i w} cs hP ha := by
    refine ⟨fun k => (State.owns_raise ..).trans (hP.1 k), ?_⟩
    have hne : w.defn.owner ≠ p := fun h => by
      have ho := (State.owns_iff s p i).mpr ⟨w, ha.watch, h, .inr ha.state⟩
      rw [hP.1 i] at ho
      cases ho
    rw [State.raise_of_watch ha.watch, State.afterCauses, State.attention_setAttention, if_neg hne]
    exact hP.2
  freed {p s i} hP hs := ⟨fun k => (standingKept.freed (j := ⟨p, k, false, (s.entry k).generation⟩) ⟨hP.1 k, rfl⟩ hs).1, by
    rw [State.setEntry_attention]
    exact hP.2⟩
  stays {p s _ _ _ _} hP hc hw hown ha hg :=
    ⟨fun k => (standingKept.stays (j := ⟨p, k, false, (s.entry k).generation⟩) ⟨hP.1 k, rfl⟩ hc hw hown ha hg).1, by
      rw [State.setEntry_attention]
      exact hP.2⟩

/-! ### The retirements -/

section
variable {before : Claim → State → State} (hb : ∀ c, Keeps Standing.Holds (before c))
include hb

theorem Standing.Holds.retirements {j : Standing} {l : List EntryIndex} (hl : j.index ∉ l) (h : j.Holds s) :
    j.Holds (l.foldl (State.portRetirement p before) s) := by
  induction l generalizing s with
  | nil => exact h
  | cons i l ih =>
    obtain ⟨hi, hl⟩ := List.ne_and_not_mem_of_not_mem_cons hl
    refine ih hl ?_
    exact (hb (.retirement i) j s h).of_resting (State.retireOwned_resting_of_ne _ p (Ne.symm hi))

/-- The retirements of PORT RESET: the port owns no watch, and the generation of each that it owned has advanced. -/
theorem State.retireAll_standing (s : State) (p : Port) (k : EntryIndex) :
    (⟨p, k, false, if s.owns p k = true then (s.entry k).generation + 1 else (s.entry k).generation⟩ : Standing).Holds
      (s.retireAll p before) := by
  obtain ⟨hsplit, -⟩ := allEntries_split k
  have hd := allEntries_nodup
  rw [hsplit] at hd
  obtain ⟨-, hback, hdisjoint⟩ := List.nodup_append.mp hd
  have hk := (List.nodup_cons.mp hback).1
  have hfront : k ∉ allEntries.take k.val := fun hm => hdisjoint k hm k List.mem_cons_self rfl
  have hbefore : (⟨p, k, s.owns p k, (s.entry k).generation⟩ : Standing).Holds
      (before (.retirement k) ((allEntries.take k.val).foldl (State.portRetirement p before) s)) :=
    hb _ _ _ (Standing.Holds.retirements hb hfront ⟨rfl, rfl⟩)
  rw [State.retireAll, hsplit, List.foldl_append, List.foldl_cons]
  refine Standing.Holds.retirements hb hk ?_
  rw [State.portRetirement]
  generalize before (.retirement k) ((allEntries.take k.val).foldl (State.portRetirement p before) s) = u at hbefore
  obtain ⟨ho, hg⟩ := hbefore
  simp only at ho hg
  cases hso : s.owns p k with
  | true =>
    obtain ⟨hstate, hgen⟩ := (u.settleCompletion k).retireWatch_entry p k
    rw [if_pos rfl, State.retireOwned, ho, hso, if_pos rfl]
    exact ⟨State.owns_of_gone hstate p, by rw [hgen, State.settleCompletion_generation, hg]⟩
  | false =>
    rw [if_neg (by simp), State.retireOwned_of_not_owned (ho.trans hso)]
    exact ⟨ho.trans hso, hg⟩

end

theorem State.surroundings_retireAll {before : Claim → State → State} (hb : ∀ c s, (before c s).surroundings = s.surroundings)
    (s : State) (p : Port) : (s.retireAll p before).surroundings = s.surroundings :=
  foldl_surroundings (fun s i => by rw [State.portRetirement, State.surroundings_retireOwned, hb]) allEntries s

/-! ### The command -/

/-- The work of PORT RESET at its three blocks (R41, R164, R66). -/
def State.portResetWork (s : State) (p : Port) (before : Claim → State → State) : State :=
  (before .release ((s.retireAll p before).setAttention p Attention.afterReset)).releaseHold p before

theorem State.portResetWork_setPort {before : Claim → State → State}
    (hb : ∀ (s : State) (v : PortState) c, before c (s.setPort p v) = (before c s).setPort p v) (s : State) (v : PortState) :
    (s.setPort p v).portResetWork p before = (s.portResetWork p before).setPort p v := by
  rw [State.portResetWork, State.retireAll_setPort _ _ _ p fun s c => hb s v c, State.setAttention_setPort, hb,
    State.releaseHold_setPort _ _ _ p fun s c => hb s v c, State.portResetWork]

/-- PORT RESET leaves its work and its response. -/
theorem exec_portReset {between : List Between} (ha : s.accepts p = true)
    (hb : ∀ (s : State) (v : PortState) c, beforeClaim p between c (s.setPort p v) = (beforeClaim p between c s).setPort p v)
    (tag : Byte) (own : List OwnTransaction) : ∃ v : PortState,
      v.window = .ready ⟨.ok, decide (OwnTransaction.write ∈ own), tag, []⟩ ∧
      exec (.portReset p ⟨tag, between, own⟩) s = .next ((s.portResetWork p (beforeClaim p between)).setPort p v) := by
  obtain ⟨v, hv, hcommand⟩ := State.command_spec ha tag 0 (portResetBody p own (beforeClaim p between))
  obtain ⟨u, hu, hown⟩ := State.ownTransactions_spec (s := s.setPort p v) own (by rw [State.port_setPort, if_pos rfl, hv])
  have hbody : portResetBody p own (beforeClaim p between) (s.setPort p v) =
      ((s.portResetWork p (beforeClaim p between)).setPort p u, .ok []) := by
    rw [portResetBody, hown, State.setPort_setPort]
    exact congrArg (·, Reply.ok []) (State.portResetWork_setPort hb s u)
  refine ⟨{ u with window := .ready ⟨.ok, decide (OwnTransaction.write ∈ own), tag, []⟩ }, rfl, ?_⟩
  show Host.Outcome.next (s.command p tag 0 true (portResetBody p own (beforeClaim p between))) = _
  rw [hcommand, hbody]
  simp [State.reply, State.answer, hu, State.setWindow]

theorem State.surroundings_releaseHold {before : Claim → State → State} (hb : ∀ c s, (before c s).surroundings = s.surroundings)
    (s : State) (p : Port) : (s.releaseHold p before).surroundings = (s.setHold p false).surroundings := by
  unfold State.releaseHold
  dsimp only
  split
  · exact State.surroundings_resumeWork hb _
  · rfl

theorem State.surroundings_setHold (h : t.surroundings = s.surroundings) (p : Port) (v : Bool) :
    (t.setHold p v).surroundings = (s.setHold p v).surroundings := by
  have hset : ∀ u : State, (u.setHold p v).surroundings = u.surroundings.setHold p v := fun u => by cases p <;> rfl
  rw [hset, hset, h]

theorem State.surroundings_portResetWork {before : Claim → State → State}
    (hb : ∀ c s, (before c s).surroundings = s.surroundings) (s : State) (p : Port) :
    (s.portResetWork p before).surroundings = (s.setHold p false).surroundings := by
  rw [State.portResetWork, State.surroundings_releaseHold hb]
  refine State.surroundings_setHold ?_ p false
  rw [hb, State.surroundings_setAttention, State.surroundings_retireAll hb]

theorem State.ClearedOf.portResetWork {before : Claim → State → State} (hstanding : ∀ c, Keeps Standing.Holds (before c))
    (hcleared : ∀ c, Keeps (fun p s => State.ClearedOf s p) (before c)) (s : State) (p : Port) :
    (s.portResetWork p before).ClearedOf p :=
  clearedKept.releaseHold p hcleared (hcleared .release p _ ⟨fun k => by
    rw [State.owns_setAttention]
    exact (State.retireAll_standing hstanding s p k).1, by rw [State.attention_setAttention, if_pos rfl]⟩)

theorem State.portResetWork_generation {before : Claim → State → State} (hstanding : ∀ c, Keeps Standing.Holds (before c))
    (h : s.owns p i = true) : ((s.portResetWork p before).entry i).generation = (s.entry i).generation + 1 := by
  have hretired := State.retireAll_standing hstanding s p i
  rw [if_pos h] at hretired
  refine (standingKept.releaseHold (j := ⟨p, i, false, (s.entry i).generation + 1⟩) p hstanding
    (hstanding .release _ _ (hretired.of_resting ?_))).2
  rw [State.setAttention_entry]

end

end Sys2Proof.Machine
end

section
/-! PORT RESET (R41, R66, R164, R184). -/

namespace Sys2Proof.Machine

section
variable {p : Port} {i : EntryIndex} {s t : State}

/-- The state after PORT RESET's retirements, its attention reset and its claim cleared, before any resume work. -/
def State.portRetired (s : State) (p : Port) : State :=
  ((s.retireEach p allEntries).setAttention p Attention.afterReset).setHold p false

theorem State.portRetired_entry (s : State) (p : Port) (i : EntryIndex) :
    (s.portRetired p).entry i = (s.retireEach p allEntries).entry i := by simp [State.portRetired]

theorem State.portRetired_converter (s : State) (p : Port) (c : ConverterId) :
    (s.portRetired p).converter c = (s.retireEach p allEntries).converter c := by simp [State.portRetired]

theorem State.portRetired_engine (s : State) (p : Port) (e : EngineIndex) :
    (s.portRetired p).engine e = (s.retireEach p allEntries).engine e := by simp [State.portRetired]

theorem State.portRetired_waitList (s : State) (p : Port) :
    (s.portRetired p).waitList = (s.retireEach p allEntries).waitList := by simp [State.portRetired]

theorem State.portResetWork_nothing (s : State) (p : Port) : s.portResetWork p nothingBefore =
    ((s.retireEach p allEntries).setAttention p Attention.afterReset).releaseHold p nothingBefore := by
  rw [State.portResetWork, State.retireAll_nothing]
  rfl

theorem State.hold_retired (s : State) (p q : Port) :
    ((s.retireEach p allEntries).setAttention p Attention.afterReset).hold q = s.hold q := by
  rw [State.setAttention_hold]
  exact State.hold_eq_of_surroundings (foldl_surroundings (fun s i => State.surroundings_retireOwned s p i) allEntries s) q

theorem State.portResetWork_of_not_last (h : s.hold p = false ∨ s.hold (otherPort p) = true) :
    s.portResetWork p nothingBefore = s.portRetired p := by
  rw [State.portResetWork_nothing]
  exact State.releaseHold_of_not_last (by simpa only [State.hold_retired] using h) nothingBefore

theorem State.portResetWork_of_last (hp : s.hold p = true) (ho : s.hold (otherPort p) = false) :
    s.portResetWork p nothingBefore = (s.portRetired p).resumeWork nothingBefore := by
  rw [State.portResetWork_nothing]
  exact State.releaseHold_of_last ((State.hold_retired s p p).trans hp) ((State.hold_retired s p _).trans ho) nothingBefore

/-- The retirements are work on the port's own watches. -/
theorem State.worksAt_retired (s : State) (p : Port) : s.WorksAt p (s.owns p) (s.retireEach p allEntries) :=
  .retireEach allEntries_nodup s fun _ _ h => h

/-- All that belongs to neither the port nor the work stands. -/
theorem State.portRetired_back (s : State) (p : Port) (v : PortState) :
    let u := (s.portRetired p).setPort p v
    ((({ u with entries := s.entries, dueList := s.dueList, conv0 := s.conv0, conv1 := s.conv1, engines := s.engines
                waitList := s.waitList } : State).setPort p (s.port p)).setAttention p (s.attention p)).setHold p (s.hold p) =
      s := by
  have hworks := s.worksAt_retired p
  obtain ⟨hs, ha⟩ := And.intro hworks.surroundings hworks.attention
  unfold State.portRetired
  generalize s.retireEach p allEntries = r at hs ha
  cases p with
  | a =>
    have hb : r.attentionB = s.attentionB := ha
    have h := congrArg (fun x : State =>
      { x with entries := s.entries, dueList := s.dueList, conv0 := s.conv0, conv1 := s.conv1, engines := s.engines
               waitList := s.waitList, portA := s.portA, attentionA := s.attentionA, attentionB := r.attentionB
               holdA := s.holdA }) hs
    exact h.trans (by rw [hb]; rfl)
  | b =>
    have hb : r.attentionA = s.attentionA := ha
    have h := congrArg (fun x : State =>
      { x with entries := s.entries, dueList := s.dueList, conv0 := s.conv0, conv1 := s.conv1, engines := s.engines
               waitList := s.waitList, portB := s.portB, attentionB := s.attentionB, attentionA := r.attentionA
               holdB := s.holdB }) hs
    exact h.trans (by rw [hb]; rfl)

theorem State.portRetired_dueList (s : State) (p : Port) :
    (s.portRetired p).dueList = s.dueList.filter fun m => !s.owns p m.entry := by
  have hd := State.retireEach_dueList allEntries_nodup s p
  simp only [mem_allEntries, decide_true, Bool.true_and] at hd
  rw [State.portRetired, State.setHold_dueList, State.setAttention_dueList, hd]

theorem State.DueListOk.portRetired (h : s.DueListOk) (p : Port) (v : PortState) : ((s.portRetired p).setPort p v).DueListOk := by
  have K := dueRegisterKept.kept
  have h0 : s.DueWithin fun _ => True := ⟨h, fun _ _ _ _ => trivial⟩
  have h1 : (s.retireEach p allEntries).DueWithin fun _ => True :=
    Keeps.foldl (fun i => K.retireOwned p i) allEntries (fun _ => True) s h0
  have h2 : ((s.retireEach p allEntries).setAttention p Attention.afterReset).DueListOk :=
    (K.resetAttention p (fun _ => True) _ h1).list
  exact (K.setPort p v (fun _ => True) _ ⟨h2.setHold p false, fun _ _ _ _ => trivial⟩).list

/-- A watch of the wait list is in DEFINED or ARMED. -/
theorem State.PlacesBut.state_of_listed {g : Option EngineIndex} {x : Option EntryIndex} (h : s.PlacesBut g x)
    (hi : i ∈ s.waitList) : (s.entry i).state ≠ .free ∧ (s.entry i).state ≠ .retiring := by
  obtain ⟨hx, ha⟩ := h.of_listed hi
  have hstates : permitted (s.entry i).state (s.entry i).activity = true := (h.placed i hx).1.states
  rw [ha] at hstates
  constructor <;> intro hs <;> rw [hs] at hstates <;> simp [permitted] at hstates

/-- Where every watch is in its place, none of the port's is left on the wait list. -/
theorem State.PlacesBut.waitList_retired (hs : s.PlacesBut none none) (p : Port) :
    ((s.retireEach p allEntries).waitList.filter fun j => !s.owns p j) = (s.retireEach p allEntries).waitList := by
  have hr := hs.retireEach (l := allEntries) p
  rw [List.filter_eq_self]
  intro j hj
  rw [Bool.not_eq_true', ← Bool.not_eq_true]
  intro ho
  obtain ⟨hfree, hretiring⟩ := hr.state_of_listed hj
  exact (State.retireEach_gone ho).1.elim hfree hretiring

/-- The second clause of O16: what stands and what is gone, whatever deliveries and starts come between the claims. -/
theorem portReset_quiet (ha : s.accepts p = true) {between : List Between} (hb : ∀ b ∈ between, isQuiet b.event = true)
    (tag : Byte) (own : List OwnTransaction) : ∃ t, exec (.portReset p ⟨tag, between, own⟩) s = .next t ∧
      (t.port p).window = .ready ⟨.ok, decide (OwnTransaction.write ∈ own), tag, []⟩ ∧
      t.ClearedOf p ∧ (∀ i, s.owns p i = true → (t.entry i).generation = (s.entry i).generation + 1) ∧
      (t.setPort p (s.port p)).surroundings = (s.setHold p false).surroundings := by
  obtain ⟨v, hv, hexec⟩ := exec_portReset ha (fun s v c => beforeClaim_setPort s p v p hb c) tag own
  have hstanding := fun c => standingKept.beforeClaim p hb c
  have hcleared := State.ClearedOf.portResetWork hstanding (fun c => clearedKept.beforeClaim p hb c) s p
  refine ⟨_, hexec, by simp [hv], ⟨fun k => by simpa [State.owns] using hcleared.1 k, by simpa using hcleared.2⟩,
    fun i hi => ?_, ?_⟩
  · rw [State.setPort_entry, State.portResetWork_generation hstanding hi]
  · have hsame := State.surroundings_portResetWork (surroundings_beforeClaim p hb) s p
    have hport : (s.portResetWork p (beforeClaim p between)).port p = s.port p :=
      (State.port_eq_of_surroundings hsame p).trans (State.setHold_port ..)
    rw [State.setPort_setPort, ← hport, State.setPort_self, hsame]

/-- The resume work of the last claim (R64), after the retirements. -/
theorem State.portResetWork_resumes (hd : s.DueListOk) (hp : s.hold p = true) (ho : s.hold (otherPort p) = false)
    (v : PortState) : let u := (s.portRetired p).setPort p v
    ∃ settled x, u.Settled settled ∧
      ExpiriesTaken (settled.filter fun m => decide (m.lateness ≠ .onTime)) { u with dueList := settled } x ∧
      ServicesTaken allEntries x ((s.portResetWork p nothingBefore).setPort p v) := by
  intro u
  have hu : u.DueListOk := hd.portRetired p v
  refine ⟨u.dueList.map u.settled, u.settleLateness.expireAll u.behind, State.settled_spec u,
    State.expiriesTaken_behind hu, ?_⟩
  rw [State.portResetWork_of_last hp ho, ← State.resumeWork_setPort _ _ _ fun _ _ => rfl, State.resumeWork_nothing hu]
  exact servicesTaken_foldl allEntries _

/-- The part of O16 about a state with every watch in its place. -/
theorem State.portRetired_places (hs : s.PlacesOk) (p : Port) (v : PortState) : let u := (s.portRetired p).setPort p v
    (∀ i, s.owns p i = true → s.reservedFor i ≠ none → u.entry i = ⟨.free, (s.entry i).generation + 1, .none, none⟩) ∧
    (∀ c, (u.converter c).queue = queueWithout (s.owns p) (s.converter c).queue) ∧
    ∃ n,
      let others := s.waitList.filter fun i => !s.owns p i
      u.waitList = others.drop n ∧
      (∀ i, s.owns p i = false → i ∉ others.take n → u.entry i = s.entry i) ∧
      ∀ i ∈ others.take n, u.entry i = { s.entry i with activity := .measuring } ∧
        ∃ e w k m pol span, (s.entry i).watch = some w ∧ w.defn.contract.measure = .timing k m pol span ∧
          u.engine e = freshEngine i k m pol span := by
  intro u
  have hb := (State.placesOk_iff s).mp hs
  have hentry : ∀ i, u.entry i = (s.retireEach p allEntries).entry i := fun i =>
    (State.setPort_entry ..).trans (s.portRetired_entry p i)
  have hengine : ∀ e, u.engine e = (s.retireEach p allEntries).engine e := fun e =>
    (State.setPort_engine ..).trans (s.portRetired_engine p e)
  have hconverter : ∀ c, u.converter c = (s.retireEach p allEntries).converter c := fun c =>
    (State.setPort_converter ..).trans (s.portRetired_converter p c)
  have hlist : u.waitList = (s.retireEach p allEntries).waitList :=
    (State.setPort_waitList ..).trans (s.portRetired_waitList p)
  refine ⟨fun i ho hr => (hentry i).trans (hb.retireEach_reserved ho hr), fun c => ?_, ?_⟩
  · rw [hconverter, hb.queue_retireEach allEntries_nodup]
    simp only [mem_allEntries, decide_true, Bool.true_and]
  · obtain ⟨n, hleft, hstand, htaken⟩ := State.HandsOn.retireEach (p := p) allEntries_nodup hb fun _ _ h => h
    rw [hb.waitList_retired] at hleft
    simp only [hentry, hengine, hlist]
    exact ⟨n, hleft, hstand, htaken⟩

/-- Settles O16. -/
theorem portResetRetiresThePortsWatches : Obligations.PortResetRetiresThePortsWatches := by
  intro s p tag ha back
  refine ⟨fun between own => ⟨_, rfl⟩, fun between own hb => ?_, fun own => ?_⟩
  · obtain ⟨t, hexec, hwindow, ⟨howns, hattention⟩, hgeneration, hsame⟩ := portReset_quiet ha hb tag own
    have hport := State.port_eq_of_surroundings hsame (otherPort p)
    have hhold := State.hold_eq_of_surroundings hsame
    have hfault := State.fault_eq_of_surroundings hsame
    have htrg0 := State.line_eq_of_surroundings hsame .trg0
    have htrg1 := State.line_eq_of_surroundings hsame .trg1
    have hnow := congrArg State.now hsame
    have hmicro := congrArg State.micro hsame
    have hcorrections := congrArg State.corrections hsame
    have hdins := congrArg State.dins hsame
    have hcheck := congrArg State.check hsame
    refine ⟨t, hexec, hwindow, ?_, howns, hgeneration, ?_⟩
    · cases p <;> exact hport
    · have hline : t.attentionLine p = false := by rw [State.attentionLine, hattention]; rfl
      rw [hattention]
      refine ⟨fun i => Vector.getElem_replicate .., rfl, rfl, hline, ?_⟩
      cases p with
      | a => exact ⟨hhold .a, hhold .b, hnow, hmicro, hcorrections, hdins, htrg0, htrg1, hcheck, hfault .c0, hfault .c1⟩
      | b => exact ⟨hhold .b, hhold .a, hnow, hmicro, hcorrections, hdins, htrg0, htrg1, hcheck, hfault .c0, hfault .c1⟩
  · obtain ⟨v, -, hexec⟩ := exec_portReset ha (between := []) (fun _ _ _ => rfl) tag own
    have hworks := s.worksAt_retired p
    refine ⟨(s.portRetired p).setPort p v, _, hexec, s.portRetired_back p v, fun i ho hr => ?_, ?_, fun c => ?_,
      fun e hf hi => ?_, fun i ho => ?_, fun hs => s.portRetired_places hs p v, fun h => ?_, fun hp ho hd =>
      State.portResetWork_resumes hd hp ho v⟩
    · rw [State.setPort_entry, State.portRetired_entry]
      exact State.retireEach_owned ho hr
    · rw [State.setPort_dueList, State.portRetired_dueList]
    · refine Converter.eq_of_unqueued (Eq.trans ?_ (hworks.unqueued c))
      rw [State.setPort_converter, State.portRetired_converter]
    · rw [State.setPort_engine, State.portRetired_engine]
      exact hworks.engine e hf hi
    · rw [State.setPort_entry, State.portRetired_entry]
      exact (hworks.entry i ho).imp id fun h => ⟨h.1, h.2.2⟩
    · exact congrArg (fun u : State => u.setPort p v) (State.portResetWork_of_not_last h)

end

end Sys2Proof.Machine
end
